-- ==== Sys2Proof/Word.lean ====
section
/-! DEFINITION. The word types of the block, one name for each width of spec/00_scope.md R6.
Bits are numbered from 0, the least significant bit (R7). -/

namespace Sys2Proof

/-- A command word: CMD_W = 32 bits (R6, 30_encoding.md R64). -/
abbrev CommandWord := BitVec 32

/-- A response word: CMD_W = 32 bits (R6, 30_encoding.md R72). -/
abbrev ResponseWord := BitVec 32

/-- A register number: REGN_W = 8 bits (R6, 10_state.md R17). -/
abbrev RegNum := BitVec 8

/-- A register's value: REG_W = 16 bits (R6, 10_state.md R17). -/
abbrev RegVal := BitVec 16

/-- An input or output sample: IN_W = OUT_W = 16 bits, signed two's complement (R6). -/
abbrev Sample := BitVec 16

/-- A filter history or output value: FILT_W = 32 bits, signed two's complement (R6). -/
abbrev FiltWord := BitVec 32

/-- A squared value or an energy sum: SQ_W = EN_W = 64 bits, unsigned (R6). -/
abbrev Energy := BitVec 64

/-- The discriminator counter, `last` and LEVEL_T: LVL_W = 16 bits, signed (R6). -/
abbrev Level := BitVec 16

/-- A transmit word: TXW = 17 bits (R6). -/
abbrev TxWord := BitVec 17

/-- The phase accumulator and a phase step: PHASE_W = 16 bits, unsigned (R6). -/
abbrev Phase := BitVec 16

/-- A wavetable entry: LUT_W = 15 bits, unsigned (R6). -/
abbrev LutEntry := BitVec 15

/-- A byte of data, or of a byte-wide transport (20_memory.md R53). -/
abbrev Byte := BitVec 8

end Sys2Proof
end

