-- ==== Sys2Proof/Syntax.lean ====
section
/-! DEFINITION. The commands of the block: one constructor for each row of spec/opcode_table.json, with
the operands of spec/30_encoding.md R71, each of exactly the width of its field. -/

namespace Sys2Proof

/-- A command (30_encoding.md R74). Every operand's type holds exactly the values its field can encode,
so every term is a well-formed command. -/
inductive Instr where
  /-- NOP, format N (47_control.md R144). -/
  | nop
  /-- SRST, format N (47_control.md R145). -/
  | srst
  /-- RDREG REG, format R (47_control.md R146). -/
  | rdreg (reg : RegNum)
  /-- WRREG REG, VAL, format W (47_control.md R147). -/
  | wrreg (reg : RegNum) (val : RegVal)
  /-- START mask, format E: RX is C[0], TX is C[1] (47_control.md R148). -/
  | start (rx tx : Bool)
  /-- STOP mask, format E: RX is C[0], TX is C[1] (47_control.md R151). -/
  | stop (rx tx : Bool)
  /-- RX_SAMPLE SAMPLE, format S (44_decoder.md R117). -/
  | rxSample (sample : Sample)
  /-- TX_PUSH BYTE, format B (46_transmit.md R135). -/
  | txPush (byte : Byte)
  /-- TX_SAMPLE, format N (46_transmit.md R138). -/
  | txSample
  deriving DecidableEq, Repr

/-- The six command formats (30_encoding.md R65 to R70). -/
inductive Format where
  /-- No operand (R65). -/
  | n
  /-- Register read (R66). -/
  | r
  /-- Register write (R67). -/
  | w
  /-- Session enable mask (R68). -/
  | e
  /-- Input sample (R69). -/
  | s
  /-- Byte (R70). -/
  | b
  deriving DecidableEq, Repr

/-- Why a command word, or a list of bytes, is no command. -/
inductive DecodeError where
  /-- C[31:28] is 0x9 to 0xF (30_encoding.md R75). -/
  | reservedOpcode (op : BitVec 4)
  /-- The opcode is assigned, but a bit its format reserves is 1 (30_encoding.md R76). -/
  | reservedField (format : Format)
  /-- A byte list that does not hold exactly the four bytes of one word (30_encoding.md R77; log entry 5). -/
  | badLength (bytes : Nat)
  deriving DecidableEq, Repr

end Sys2Proof
end

