-- ==== Sys2Proof/WellFormed.lean ====
section
/-! DEFINITION. Which command words are well formed: the opcode map of spec/30_encoding.md R74 as rows of
match and mask, and the two checks of R75 and R76. Every term of `Instr` is well formed, since its
operands have the widths of their fields; what can be ill formed is a word. -/

namespace Sys2Proof

/-- One row of the opcode map (30_encoding.md R74, opcode_table.json). -/
structure OpcodeRow where
  /-- The command's mnemonic, as spec/opcode_table.json has it. -/
  mnemonic : String
  /-- The command's format. -/
  format : Format
  /-- The row's match word. -/
  pattern : CommandWord
  /-- The row's mask word. -/
  mask : CommandWord
  deriving DecidableEq, Repr

/-- The opcode map of 30_encoding.md R74, opcodes 0x0 to 0x8 in order. -/
def opcodeTable : List OpcodeRow :=
  [ ⟨"NOP", .n, 0x00000000#32, 0xFFFFFFFF#32⟩,
    ⟨"SRST", .n, 0x10000000#32, 0xFFFFFFFF#32⟩,
    ⟨"RDREG", .r, 0x20000000#32, 0xFF00FFFF#32⟩,
    ⟨"WRREG", .w, 0x30000000#32, 0xFF000000#32⟩,
    ⟨"START", .e, 0x40000000#32, 0xFFFFFFFC#32⟩,
    ⟨"STOP", .e, 0x50000000#32, 0xFFFFFFFC#32⟩,
    ⟨"RX_SAMPLE", .s, 0x60000000#32, 0xFFFF0000#32⟩,
    ⟨"TX_PUSH", .b, 0x70000000#32, 0xFFFFFF00#32⟩,
    ⟨"TX_SAMPLE", .n, 0x80000000#32, 0xFFFFFFFF#32⟩ ]

/-- A word is the command in a row exactly when (C and mask) = match (30_encoding.md R74). -/
def OpcodeRow.accepts (row : OpcodeRow) (c : CommandWord) : Bool :=
  c &&& row.mask == row.pattern

/-- The format an opcode selects, none for the reserved opcodes 0x9 to 0xF (30_encoding.md R74, R75). -/
def formatOf (op : BitVec 4) : Option Format :=
  match op.toNat with
  | 0x0 | 0x1 | 0x8 => some .n
  | 0x2 => some .r
  | 0x3 => some .w
  | 0x4 | 0x5 => some .e
  | 0x6 => some .s
  | 0x7 => some .b
  | _ => none

/-- The bits of C[27:0] outside a format's operand fields (30_encoding.md R65 to R70). -/
def Format.reserved : Format → CommandWord
  | .n => 0x0FFFFFFF#32
  | .r => 0x0F00FFFF#32
  | .w => 0x0F000000#32
  | .e => 0x0FFFFFFC#32
  | .s => 0x0FFF0000#32
  | .b => 0x0FFFFF00#32

/-- The first check: the opcode C[31:28] is assigned (30_encoding.md R75). -/
def opcodeAssigned (c : CommandWord) : Bool :=
  (formatOf (c.extractLsb' 28 4)).isSome

/-- The second check: no bit the word's format reserves is 1 (30_encoding.md R76). -/
def reservedClear (c : CommandWord) : Bool :=
  match formatOf (c.extractLsb' 28 4) with
  | some f => c &&& f.reserved == 0#32
  | none => true

/-- A command word is well formed when both checks pass; any other word is illegal (60_exceptions.md R158). -/
def wellFormedWord (c : CommandWord) : Bool :=
  opcodeAssigned c && reservedClear c

/-- The row of the opcode map a command belongs to (30_encoding.md R74). -/
def Instr.row : Instr → OpcodeRow
  | .nop => ⟨"NOP", .n, 0x00000000#32, 0xFFFFFFFF#32⟩
  | .srst => ⟨"SRST", .n, 0x10000000#32, 0xFFFFFFFF#32⟩
  | .rdreg _ => ⟨"RDREG", .r, 0x20000000#32, 0xFF00FFFF#32⟩
  | .wrreg _ _ => ⟨"WRREG", .w, 0x30000000#32, 0xFF000000#32⟩
  | .start _ _ => ⟨"START", .e, 0x40000000#32, 0xFFFFFFFC#32⟩
  | .stop _ _ => ⟨"STOP", .e, 0x50000000#32, 0xFFFFFFFC#32⟩
  | .rxSample _ => ⟨"RX_SAMPLE", .s, 0x60000000#32, 0xFFFF0000#32⟩
  | .txPush _ => ⟨"TX_PUSH", .b, 0x70000000#32, 0xFFFFFF00#32⟩
  | .txSample => ⟨"TX_SAMPLE", .n, 0x80000000#32, 0xFFFFFFFF#32⟩

end Sys2Proof
end

