-- ==== Sys2Proof/Decode.lean ====
section
/-! DEFINITION. The decoder of command words (spec/30_encoding.md R64 to R71, R74 to R77), total on every
word and on every list of bytes and rejecting by name, and after it the encoder, written from the same
formats. The decoder reads the fields of each format; that it agrees with the match and mask of R74 is a
statement, not its definition. -/

namespace Sys2Proof

/-- A command if the bits the format reserves are 0, and otherwise the refusal of R76. -/
def ifClear (clear : Bool) (format : Format) (i : Instr) : Except DecodeError Instr :=
  if clear then .ok i else .error (.reservedField format)

/-- The decoder (30_encoding.md R64 to R71, R75, R76): C[31:28] selects the command, each format's operand
fields give the operands, and every other bit must be 0. -/
def decode (c : CommandWord) : Except DecodeError Instr :=
  match (c.extractLsb' 28 4).toNat with
  | 0x0 => ifClear (c.extractLsb' 0 28 == 0#28) .n .nop
  | 0x1 => ifClear (c.extractLsb' 0 28 == 0#28) .n .srst
  | 0x2 =>
    ifClear (c.extractLsb' 24 4 == 0#4 && c.extractLsb' 0 16 == 0#16) .r (.rdreg (c.extractLsb' 16 8))
  | 0x3 => ifClear (c.extractLsb' 24 4 == 0#4) .w (.wrreg (c.extractLsb' 16 8) (c.extractLsb' 0 16))
  | 0x4 => ifClear (c.extractLsb' 2 26 == 0#26) .e (.start (c.getLsbD 0) (c.getLsbD 1))
  | 0x5 => ifClear (c.extractLsb' 2 26 == 0#26) .e (.stop (c.getLsbD 0) (c.getLsbD 1))
  | 0x6 => ifClear (c.extractLsb' 16 12 == 0#12) .s (.rxSample (c.extractLsb' 0 16))
  | 0x7 => ifClear (c.extractLsb' 8 20 == 0#20) .b (.txPush (c.extractLsb' 0 8))
  | 0x8 => ifClear (c.extractLsb' 0 28 == 0#28) .n .txSample
  | _ => .error (.reservedOpcode (c.extractLsb' 28 4))

/-- The encoder (30_encoding.md R65 to R70): the fields of each format, from bit 31 down. -/
def encode : Instr → CommandWord
  | .nop => 0x0#4 ++ 0#28
  | .srst => 0x1#4 ++ 0#28
  | .rdreg reg => 0x2#4 ++ 0#4 ++ reg ++ 0#16
  | .wrreg reg val => 0x3#4 ++ 0#4 ++ reg ++ val
  | .start rx tx => 0x4#4 ++ 0#26 ++ BitVec.ofBool tx ++ BitVec.ofBool rx
  | .stop rx tx => 0x5#4 ++ 0#26 ++ BitVec.ofBool tx ++ BitVec.ofBool rx
  | .rxSample sample => 0x6#4 ++ 0#12 ++ sample
  | .txPush byte => 0x7#4 ++ 0#20 ++ byte
  | .txSample => 0x8#4 ++ 0#28

/-- The word of four bytes, the least significant byte first (20_memory.md R53 item 2). -/
def wordOfBytes (b0 b1 b2 b3 : Byte) : CommandWord :=
  b3 ++ b2 ++ b1 ++ b0

/-- The four bytes of a word, the least significant byte first (20_memory.md R53 item 2). -/
def bytesOfWord (c : BitVec 32) : List Byte :=
  [c.extractLsb' 0 8, c.extractLsb' 8 8, c.extractLsb' 16 8, c.extractLsb' 24 8]

/-- The decoder on a byte-wide transport: every command is exactly 32 bits (30_encoding.md R77), so only a
list of four bytes can hold one. -/
def decodeBytes : List Byte → Except DecodeError Instr
  | [b0, b1, b2, b3] => decode (wordOfBytes b0 b1 b2 b3)
  | bytes => .error (.badLength bytes.length)

/-- The bytes of a command on a byte-wide transport. -/
def encodeBytes (i : Instr) : List Byte :=
  bytesOfWord (encode i)

/-- The command word whose low `nbits` bits are those of `w` and whose other bits are 0. -/
def tableWord (nbits w : Nat) : CommandWord :=
  BitVec.ofNat 32 (w % 2 ^ nbits)

/-- The command the decoder reads from the bytes of a table word, none where it refuses them. -/
def decodeTableWord (nbits w : Nat) : Option Instr :=
  (decodeBytes (bytesOfWord (tableWord nbits w))).toOption

end Sys2Proof
end

