-- ==== Sys2Proof/Config.lean ====
section
/-! DEFINITION. The implementation parameters of spec/00_scope.md R6 that the model computes with.
The widths of R6 stand in Sys2Proof/Word.lean and in the types of Machine/State.lean. The spec leaves
no value of the block open (70_reset_and_hazards.md R182), so there is no free value here. -/

namespace Sys2Proof.Config

/-- QF: the fractional bits of a coefficient, Q14 (R6). -/
abbrev qf : Nat := 14

/-- WMAX: the capacity of each energy window, the largest legal WINDOW_SIZE (R6, R23). -/
abbrev wmax : Nat := 64

/-- The largest legal OFFSET and SPB (10_state.md R25, R26). -/
abbrev countMax : Nat := 32767

/-- The largest legal D + P + ST (10_state.md R21). -/
abbrev frameBitsMax : Nat := 16

/-- The largest legal number of data bits D (10_state.md R21). -/
abbrev dataBitsMax : Nat := 8

/-- The ID register's constant (10_state.md R18). -/
abbrev idValue : RegVal := 0xB103#16

/-- The VERSION register's constant (10_state.md R19). -/
abbrev versionValue : RegVal := 0x0001#16

end Sys2Proof.Config
end

