-- ==== Sys2Proof/Machine/State.lean ====
section
/-! DEFINITION. The state of the block as plain data: the five parts of spec/10_state.md R13, and the
command port through which the host drives it (00_scope.md R11, R12). Every register whose rule defines
fields is held as those fields, so its reserved bits have nowhere to be stored (20_memory.md R51;
log entry 7). -/

namespace Sys2Proof.Machine

/-- One value for each tone of the receive channel: index 0 is space, index 1 is mark (10_state.md R13). -/
structure PerTone (α : Type) where
  /-- Index 0, the space-indicating role. -/
  space : α
  /-- Index 1, the mark-indicating role. -/
  mark : α
  deriving DecidableEq, Repr

/-- PARITY_KIND (10_state.md R21). -/
inductive ParityKind where
  /-- Code 0. -/
  | space
  /-- Code 1. -/
  | mark
  /-- Code 2. -/
  | even
  /-- Code 3. -/
  | odd
  deriving DecidableEq, Repr

/-- SERCFG, the serial configuration (10_state.md R21). -/
structure SerCfg where
  /-- DATA_BITS (D), bits 3:0. -/
  dataBits : BitVec 4
  /-- PARITY_BITS (P), bit 4. -/
  parityBits : Bool
  /-- PARITY_KIND (K), bits 6:5. -/
  parityKind : ParityKind
  /-- STOP_BITS (ST), bits 11:8. -/
  stopBits : BitVec 4
  deriving DecidableEq, Repr

/-- The configuration registers (10_state.md R13 part 1, R21 to R28). -/
structure ConfigRegs where
  /-- SERCFG (R21). -/
  ser : SerCfg
  /-- CHANCFG bit 0, RX_CH (R22). -/
  rxCh : Bool
  /-- CHANCFG bit 1, TX_CH (R22). -/
  txCh : Bool
  /-- WINDOW bits 6:0, WINDOW_SIZE (R23). -/
  window : BitVec 7
  /-- HYST bits 14:0, H (R24). -/
  hyst : BitVec 15
  /-- OFFSET (R25). -/
  offset : BitVec 16
  /-- SPB, samples per bit (R26). -/
  spb : BitVec 16
  /-- LEVEL_T, signed (R27). -/
  levelT : Level
  /-- THRESH0 to THRESH3, THRESH0 least significant (R28). -/
  thresh : Vector (BitVec 16) 4
  deriving DecidableEq, Repr

/-- The tables (10_state.md R13 part 2, R29 to R31). -/
structure Tables where
  /-- COEF: coefficient k of filter slot f at index 3·f + k, signed Q14 (R29). -/
  coef : Vector (BitVec 16) 12
  /-- STEP0 to STEP3, the phase steps (R30). -/
  step : Vector Phase 4
  /-- LUT0 to LUT63, the quarter-wave amplitudes (R31). -/
  lut : Vector LutEntry 64
  deriving DecidableEq, Repr

/-- The control state: the two enables and the four sticky event bits (10_state.md R34). -/
structure Control where
  /-- RX_EN: the receive session is enabled. -/
  rxEn : Bool
  /-- TX_EN: the transmit session is enabled. -/
  txEn : Bool
  /-- FE_SEEN: a framing error occurred. -/
  feSeen : Bool
  /-- PE_SEEN: a byte with a parity mismatch was emitted. -/
  peSeen : Bool
  /-- OVR_SEEN: a TX_PUSH was refused for a full slot. -/
  ovrSeen : Bool
  /-- LS_SEEN: a receive sample was gated as low-signal. -/
  lsSeen : Bool
  deriving DecidableEq, Repr

/-- FilterState FS[t] (10_state.md R35). -/
structure FilterState where
  /-- The circular history of inputs. -/
  xin : Vector FiltWord 3
  /-- The circular history of outputs. -/
  yout : Vector FiltWord 3
  /-- The slot the next FILTER step writes. -/
  p : Fin 3
  deriving DecidableEq, Repr

/-- EnergyState ES[t] (10_state.md R36). -/
structure EnergyState where
  /-- The circular window of squares. -/
  win : Vector Energy 64
  /-- The running sum, kept modulo 2^64. -/
  sum : Energy
  /-- The window entry the next ENERGY step replaces. -/
  ptr : Fin 64
  /-- The window has been filled once. -/
  primed : Bool
  deriving DecidableEq, Repr

/-- DecoderState DEC (10_state.md R38). -/
structure DecoderState where
  /-- The signed countdown to the next sampling instant, -1 when not armed. -/
  off : BitVec 16
  /-- The previous discriminator level. -/
  last : Level
  /-- The index of the next bit to sample within the frame. -/
  bit : BitVec 5
  /-- The data bits received so far. -/
  byte : Byte
  /-- The received parity bit. -/
  par : Bool
  deriving DecidableEq, Repr

/-- The receive session state (10_state.md R13 part 4). -/
structure RxSession where
  /-- FS[0] and FS[1]. -/
  fs : PerTone FilterState
  /-- ES[0] and ES[1]. -/
  es : PerTone EnergyState
  /-- DISC.cur, the discriminator's counter (R37). -/
  cur : Level
  /-- DEC. -/
  dec : DecoderState
  deriving DecidableEq, Repr

/-- ByteState TX with its bit timer (10_state.md R39). -/
structure ByteState where
  /-- The word being shifted out, bit 0 first. -/
  cur : TxWord
  /-- The pending word. -/
  nxt : TxWord
  /-- The bits of `cur` not yet completed. -/
  rem : BitVec 5
  /-- The pending slot holds a byte. -/
  full : Bool
  /-- The bit value whose tone is being sent. -/
  tone : Bool
  /-- The output samples left in the current bit period. -/
  timer : BitVec 16
  deriving DecidableEq, Repr

/-- The transmit session state (10_state.md R13 part 5). -/
structure TxSession where
  /-- TX. -/
  byte : ByteState
  /-- SYN.phase (R40). -/
  phase : Phase
  deriving DecidableEq, Repr

/-- What the host, or the board, presents to the block: a command word (30_encoding.md R64), or the reset
input (70_reset_and_hazards.md R172; log entry 4). -/
inductive PortInput where
  /-- One 32-bit command word. -/
  | command (c : CommandWord)
  /-- The reset input. -/
  | resetInput
  deriving DecidableEq, Repr

/-- The state of the block and of its port. -/
structure State where
  /-- The inputs issued and not yet taken, the oldest first: the host's position in its command sequence
  (10_state.md R16; log entry 2). -/
  inputs : List PortInput
  /-- The responses given so far, the oldest first: all the host observes (00_scope.md R12; log entry 3). -/
  responses : List ResponseWord
  /-- The configuration registers. -/
  cfg : ConfigRegs
  /-- The tables. -/
  tab : Tables
  /-- The enables and the sticky bits. -/
  ctl : Control
  /-- The receive session state. -/
  rx : RxSession
  /-- The transmit session state. -/
  tx : TxSession
  deriving DecidableEq, Repr

/-- The faults of the block: none. The spec gives it no trap and no item that faults (60_exceptions.md
R153; 93_implementation_defined.md section 1; log entry 8), so nobody raises one and the absence is safe. -/
inductive Fault
  deriving DecidableEq, Repr

/-- The refusals of the model. -/
inductive Refusal where
  /-- Raised by an arm of `exec` whose command has no meaning yet; safe, since the step stops. No arm
  raises it: every command has its meaning. -/
  | notModelled (mnemonic : String)
  deriving DecidableEq, Repr

/-- A FilterState with every field 0 (10_state.md R44). -/
def FilterState.reset : FilterState :=
  { xin := Vector.replicate 3 0#32, yout := Vector.replicate 3 0#32, p := 0 }

/-- An EnergyState with every field 0 (10_state.md R44). -/
def EnergyState.reset : EnergyState :=
  { win := Vector.replicate 64 0#64, sum := 0#64, ptr := 0, primed := false }

/-- The machine right after reset (10_state.md R44, 70_reset_and_hazards.md R172): every CFG register and
table entry 0, nothing enabled, no sticky bit, DEC.off = -1, all other session state 0. The port holds no
input and no response (log entries 2 and 3). -/
def State.reset : State :=
  { inputs := []
    responses := []
    cfg :=
      { ser := { dataBits := 0#4, parityBits := false, parityKind := .space, stopBits := 0#4 }
        rxCh := false
        txCh := false
        window := 0#7
        hyst := 0#15
        offset := 0#16
        spb := 0#16
        levelT := 0#16
        thresh := Vector.replicate 4 0#16 }
    tab :=
      { coef := Vector.replicate 12 0#16
        step := Vector.replicate 4 0#16
        lut := Vector.replicate 64 0#15 }
    ctl :=
      { rxEn := false, txEn := false, feSeen := false, peSeen := false, ovrSeen := false, lsSeen := false }
    rx :=
      { fs := { space := FilterState.reset, mark := FilterState.reset }
        es := { space := EnergyState.reset, mark := EnergyState.reset }
        cur := 0#16
        dec := { off := 0xFFFF#16, last := 0#16, bit := 0#5, byte := 0#8, par := false } }
    tx :=
      { byte := { cur := 0#17, nxt := 0#17, rem := 0#5, full := false, tone := false, timer := 0#16 }
        phase := 0#16 } }

end Sys2Proof.Machine
end

