-- ==== Sys2Proof/Machine/RegMap.lean ====
section
/-! DEFINITION. The register map of spec/10_state.md R17: which register a number names, and by its kind
how it may be accessed. -/

namespace Sys2Proof.Machine

/-- A CFG register or table entry (10_state.md R17, R21 to R31). -/
inductive CfgReg where
  /-- 0x04. -/
  | sercfg
  /-- 0x05. -/
  | chancfg
  /-- 0x06. -/
  | window
  /-- 0x07. -/
  | hyst
  /-- 0x08. -/
  | offset
  /-- 0x09. -/
  | spb
  /-- 0x0A. -/
  | levelT
  /-- 0x0C + j. -/
  | thresh (j : Fin 4)
  /-- 0x10 + i, with i = 3·f + k for coefficient k of slot f. -/
  | coef (i : Fin 12)
  /-- 0x1C + f. -/
  | step (f : Fin 4)
  /-- 0x40 + i. -/
  | lut (i : Fin 64)
  deriving DecidableEq, Repr

/-- An RO register: the two constants and the debug registers (10_state.md R18, R19, R32). -/
inductive RoReg where
  /-- 0x00. -/
  | id
  /-- 0x01. -/
  | version
  /-- 0x20, DEC_OFF. -/
  | decOff
  /-- 0x21, DEC_BIT. -/
  | decBit
  /-- 0x22, DEC_BYTE. -/
  | decByte
  /-- 0x23, DEC_PAR. -/
  | decPar
  /-- 0x24, DEC_LAST. -/
  | decLast
  /-- 0x25, DISC_CUR. -/
  | discCur
  /-- 0x26, EN_PTR0. -/
  | enPtr0
  /-- 0x27, EN_PTR1. -/
  | enPtr1
  /-- 0x28 + j, EN_SUM0_j. -/
  | enSum0 (j : Fin 4)
  /-- 0x2C + j, EN_SUM1_j. -/
  | enSum1 (j : Fin 4)
  /-- 0x30, TX_CUR0. -/
  | txCur0
  /-- 0x31, TX_CUR1. -/
  | txCur1
  /-- 0x32, TX_NXT0. -/
  | txNxt0
  /-- 0x33, TX_NXT1. -/
  | txNxt1
  /-- 0x34, TX_REM. -/
  | txRem
  /-- 0x35, TX_TIMER. -/
  | txTimer
  /-- 0x36, TX_TONE. -/
  | txTone
  /-- 0x37, TX_PHASE. -/
  | txPhase
  /-- 0x38 + j, FLT_Y0_j. -/
  | fltY0 (j : Fin 2)
  /-- 0x3A + j, FLT_Y1_j. -/
  | fltY1 (j : Fin 2)
  /-- 0x3C, FLT_PTR. -/
  | fltPtr
  deriving DecidableEq, Repr

/-- A mapped register, by its access kind (10_state.md R17). -/
inductive RegName where
  /-- Read-only. -/
  | ro (r : RoReg)
  /-- 0x02, whose bits are RO or write-1-to-clear (R20). -/
  | status
  /-- Configuration, locked while a session is enabled. -/
  | cfg (r : CfgReg)
  deriving DecidableEq, Repr

/-- The register a number names, none for an unmapped number (10_state.md R17, R33). -/
def regOf (n : RegNum) : Option RegName :=
  match n.toNat with
  | 0x00 => some (.ro .id)
  | 0x01 => some (.ro .version)
  | 0x02 => some .status
  | 0x04 => some (.cfg .sercfg)
  | 0x05 => some (.cfg .chancfg)
  | 0x06 => some (.cfg .window)
  | 0x07 => some (.cfg .hyst)
  | 0x08 => some (.cfg .offset)
  | 0x09 => some (.cfg .spb)
  | 0x0A => some (.cfg .levelT)
  | 0x20 => some (.ro .decOff)
  | 0x21 => some (.ro .decBit)
  | 0x22 => some (.ro .decByte)
  | 0x23 => some (.ro .decPar)
  | 0x24 => some (.ro .decLast)
  | 0x25 => some (.ro .discCur)
  | 0x26 => some (.ro .enPtr0)
  | 0x27 => some (.ro .enPtr1)
  | 0x30 => some (.ro .txCur0)
  | 0x31 => some (.ro .txCur1)
  | 0x32 => some (.ro .txNxt0)
  | 0x33 => some (.ro .txNxt1)
  | 0x34 => some (.ro .txRem)
  | 0x35 => some (.ro .txTimer)
  | 0x36 => some (.ro .txTone)
  | 0x37 => some (.ro .txPhase)
  | 0x3C => some (.ro .fltPtr)
  | k =>
    if h : 0x0C ≤ k ∧ k ≤ 0x0F then some (.cfg (.thresh ⟨k - 0x0C, by omega⟩))
    else if h : 0x10 ≤ k ∧ k ≤ 0x1B then some (.cfg (.coef ⟨k - 0x10, by omega⟩))
    else if h : 0x1C ≤ k ∧ k ≤ 0x1F then some (.cfg (.step ⟨k - 0x1C, by omega⟩))
    else if h : 0x28 ≤ k ∧ k ≤ 0x2B then some (.ro (.enSum0 ⟨k - 0x28, by omega⟩))
    else if h : 0x2C ≤ k ∧ k ≤ 0x2F then some (.ro (.enSum1 ⟨k - 0x2C, by omega⟩))
    else if h : 0x38 ≤ k ∧ k ≤ 0x39 then some (.ro (.fltY0 ⟨k - 0x38, by omega⟩))
    else if h : 0x3A ≤ k ∧ k ≤ 0x3B then some (.ro (.fltY1 ⟨k - 0x3A, by omega⟩))
    else if h : 0x40 ≤ k ∧ k ≤ 0x7F then some (.cfg (.lut ⟨k - 0x40, by omega⟩))
    else none

/-- FIELDMASK: a 1 in each bit the register's rule defines as a field (47_control.md R147). -/
def fieldMask : CfgReg → RegVal
  | .sercfg => 0x0F7F#16
  | .chancfg => 0x0003#16
  | .window => 0x007F#16
  | .hyst => 0x7FFF#16
  | .lut _ => 0x7FFF#16
  | .offset | .spb | .levelT | .thresh _ | .coef _ | .step _ => 0xFFFF#16

end Sys2Proof.Machine
end

