-- ==== Sys2Proof/Machine/Operands.lean ====
section
/-! DEFINITION. How operands, register fields and numbers are read: the arithmetic primitives of
spec/00_scope.md R8 and R9, the operand assembly of 30_encoding.md R71, the fields of the configuration
registers (10_state.md R21 to R31) and the quantities derived from them (R41). -/

namespace Sys2Proof.Machine

/-- asr(v, k) = floor(v / 2^k), rounding toward minus infinity (00_scope.md R9). -/
def asr (v : Int) (k : Nat) : Int :=
  v / 2 ^ k

/-- mulq(c, v), the Q14 product (00_scope.md R9). -/
def mulq (c v : Int) : Int :=
  asr (c * v) Config.qf

/-- clamp(v, lo, hi) (00_scope.md R9). -/
def clamp (v lo hi : Int) : Int :=
  min (max v lo) hi

/-- sgn3(a, b) (00_scope.md R9). -/
def sgn3 (a b : Nat) : Int :=
  if a > b then 1 else if a < b then -1 else 0

/-- popcount(v), the number of 1 bits (00_scope.md R9). -/
def popcount {w : Nat} (v : BitVec w) : Nat :=
  (List.range w).countP fun i => v.getLsbD i

/-- SAMPLE as the input x = sext_16(SAMPLE), in the width of the filter history (30_encoding.md R71,
41_filter_bank.md R85). -/
def inputOf (sample : Sample) : FiltWord :=
  sample.signExtend 32

/-- The 2-bit code of PARITY_KIND (10_state.md R21). -/
def parityCode : ParityKind → BitVec 2
  | .space => 0#2
  | .mark => 1#2
  | .even => 2#2
  | .odd => 3#2

/-- The PARITY_KIND of a 2-bit code (10_state.md R21). -/
def parityOfCode (k : BitVec 2) : ParityKind :=
  match k.toNat with
  | 0 => .space
  | 1 => .mark
  | 2 => .even
  | _ => .odd

/-- D (10_state.md R41). -/
def SerCfg.numData (c : SerCfg) : Nat :=
  c.dataBits.toNat

/-- P (10_state.md R41). -/
def SerCfg.numParity (c : SerCfg) : Nat :=
  c.parityBits.toNat

/-- ST (10_state.md R41). -/
def SerCfg.numStop (c : SerCfg) : Nat :=
  c.stopBits.toNat

/-- PAR_START = 1 + D (10_state.md R41). -/
def SerCfg.parStart (c : SerCfg) : Nat :=
  1 + c.numData

/-- STOP_START = 1 + D + P (10_state.md R41). -/
def SerCfg.stopStart (c : SerCfg) : Nat :=
  1 + c.numData + c.numParity

/-- N_FRAME = 1 + D + P + ST (10_state.md R41). -/
def SerCfg.numFrame (c : SerCfg) : Nat :=
  1 + c.numData + c.numParity + c.numStop

/-- THRESH, with THRESH0 least significant (10_state.md R28, 20_memory.md R53). -/
def threshOf (c : ConfigRegs) : Energy :=
  c.thresh[3] ++ c.thresh[2] ++ c.thresh[1] ++ c.thresh[0]

/-- Filter slot or phase step f = 2·channel + tone (10_state.md R29, R30). -/
def slotOf (channel tone : Bool) : Fin 4 :=
  ⟨2 * channel.toNat + tone.toNat, by cases channel <;> cases tone <;> decide⟩

/-- COEF[f][k] as a signed Q14 value (10_state.md R29). -/
def coefOf (t : Tables) (f : Fin 4) (k : Fin 3) : Int :=
  (t.coef[3 * f.val + k.val]'(by omega)).toInt

/-- STEP[f] (10_state.md R30). -/
def stepOf (t : Tables) (f : Fin 4) : Phase :=
  t.step[f.val]

/-- Part j of a 64-bit value read 16 bits at a time, the lowest number holding bits 15:0 (20_memory.md
R53). -/
def part64 (v : BitVec 64) (j : Fin 4) : RegVal :=
  v.extractLsb' (16 * j.val) 16

/-- Part j of a 32-bit value read 16 bits at a time (20_memory.md R53). -/
def part32 (v : BitVec 32) (j : Fin 2) : RegVal :=
  v.extractLsb' (16 * j.val) 16

end Sys2Proof.Machine
end

