-- ==== Sys2Proof/Machine/Flags.lean ====
section
/-! DEFINITION. Status codes, response words, response flags and the STATUS register: spec/30_encoding.md
R72 and R73, 60_exceptions.md R155, 10_state.md R20, and the parity bit of 46_transmit.md R132. -/

namespace Sys2Proof.Machine

/-- The status codes (60_exceptions.md R155). -/
inductive Status where
  /-- The command completed. -/
  | ok
  /-- Reserved opcode, or a 1 in a reserved field. -/
  | illegal
  /-- Unmapped register number. -/
  | badreg
  /-- Write to ID, VERSION or a debug register. -/
  | readonly
  /-- Write to a CFG register while a session is enabled. -/
  | locked
  /-- A START check failed. -/
  | config
  /-- Pump command for a pipeline that is not enabled. -/
  | disabled
  /-- TX_PUSH with the pending slot full. -/
  | overrun
  deriving DecidableEq, Repr

/-- The code of a status, carried in response bits 31:28 (60_exceptions.md R155). -/
def Status.code : Status → BitVec 4
  | .ok => 0#4
  | .illegal => 1#4
  | .badreg => 2#4
  | .readonly => 3#4
  | .locked => 4#4
  | .config => 5#4
  | .disabled => 6#4
  | .overrun => 7#4

/-- The response word: STATUS, FLAGS and DATA from bit 31 down (30_encoding.md R72). -/
def responseWord (st : Status) (flags : BitVec 12) (data : RegVal) : ResponseWord :=
  st.code ++ flags ++ data

/-- A flag given by its bit position in the response word, in the FLAGS field of bits 27:16 (30_encoding.md
R73). -/
def flagAt (position : Nat) (b : Bool) : BitVec 12 :=
  (BitVec.ofBool b).setWidth 12 <<< (position - 16)

/-- A 1-bit field given by its bit position in a 16-bit register. -/
def bitAt (position : Nat) (b : Bool) : RegVal :=
  (BitVec.ofBool b).setWidth 16 <<< position

/-- BV: a byte was emitted (30_encoding.md R73). -/
def flagBV (b : Bool) : BitVec 12 := flagAt 16 b

/-- FE: framing error (30_encoding.md R73). -/
def flagFE (b : Bool) : BitVec 12 := flagAt 17 b

/-- LS: low signal (30_encoding.md R73). -/
def flagLS (b : Bool) : BitVec 12 := flagAt 18 b

/-- NP: the windows are not primed (30_encoding.md R73). -/
def flagNP (b : Bool) : BitVec 12 := flagAt 19 b

/-- PE: the emitted byte's parity bit mismatches (30_encoding.md R73). -/
def flagPE (b : Bool) : BitVec 12 := flagAt 20 b

/-- RP: the received parity bit (30_encoding.md R73). -/
def flagRP (b : Bool) : BitVec 12 := flagAt 21 b

/-- PROMOTED: a byte became the current word (30_encoding.md R73). -/
def flagPromoted (b : Bool) : BitVec 12 := flagAt 16 b

/-- TICK: a bit boundary occurred at this sample (30_encoding.md R73). -/
def flagTick (b : Bool) : BitVec 12 := flagAt 17 b

/-- TONE: the bit value whose tone this sample uses (30_encoding.md R73). -/
def flagTone (b : Bool) : BitVec 12 := flagAt 18 b

/-- BUSY: TX.rem > 0 after the command (30_encoding.md R73). -/
def flagBusy (b : Bool) : BitVec 12 := flagAt 19 b

/-- FULL: TX.full after the command (30_encoding.md R73). -/
def flagFull (b : Bool) : BitVec 12 := flagAt 20 b

/-- PARITY(K, v), the parity bit for a data value (46_transmit.md R132). -/
def parityOf (k : ParityKind) (v : Byte) : Bool :=
  match k with
  | .space => false
  | .mark => true
  | .even => popcount v % 2 == 1
  | .odd => popcount v % 2 == 0

/-- TX_BUSY: a word is shifting out, TX.rem > 0 (10_state.md R20, R39). -/
def txBusy (b : ByteState) : Bool :=
  decide (0 < b.rem.toNat)

/-- RX_ARMED: DEC.off ≥ 1 (10_state.md R20). -/
def rxArmed (d : DecoderState) : Bool :=
  decide (1 ≤ d.off.toInt)

/-- The value read from STATUS (10_state.md R20). -/
def statusWord (s : State) : RegVal :=
  bitAt 0 s.ctl.rxEn ||| bitAt 1 s.ctl.txEn ||| bitAt 2 s.rx.es.space.primed |||
    bitAt 3 (txBusy s.tx.byte) ||| bitAt 4 s.tx.byte.full ||| bitAt 5 (rxArmed s.rx.dec) |||
    bitAt 8 s.ctl.feSeen ||| bitAt 9 s.ctl.peSeen ||| bitAt 10 s.ctl.ovrSeen ||| bitAt 11 s.ctl.lsSeen

/-- The write-1-to-clear action of a STATUS write (10_state.md R20, 47_control.md R147). -/
def clearSticky (v : RegVal) (c : Control) : Control :=
  { c with
    feSeen := c.feSeen && !v.getLsbD 8
    peSeen := c.peSeen && !v.getLsbD 9
    ovrSeen := c.ovrSeen && !v.getLsbD 10
    lsSeen := c.lsSeen && !v.getLsbD 11 }

end Sys2Proof.Machine
end

