-- ==== Sys2Proof/Machine/Ops.lean ====
section
/-! DEFINITION. The shared operations of the commands: answering, refusing (the block's form of taking an
exception, spec/60_exceptions.md R153, R154), reading and writing registers (20_memory.md R47 to R52),
reset and session initialisation (70_reset_and_hazards.md R172 to R175), and taking the next input. -/

namespace Sys2Proof.Machine

/-- The outcome of one step of this block. -/
abbrev StepOutcome := Host.Outcome State Fault Refusal

/-- The state with one more response, the newest last. -/
def State.answered (s : State) (p : ResponseWord) : State :=
  { s with responses := s.responses ++ [p] }

/-- respond(status, flags, data): ends the command with its one response (00_scope.md R10, 30_encoding.md
R64, R72). -/
def respond (st : Status) (flags : BitVec 12) (data : RegVal) (s : State) : StepOutcome :=
  .next (s.answered (responseWord st flags data))

/-- raise S(d): ends the command with that status and FLAGS = 0, and writes no other state
(60_exceptions.md R154). There is no saved state, no vector and no return from it (R164): the next command
is taken normally (R153). -/
def raise (st : Status) (data : RegVal) (s : State) : StepOutcome :=
  respond st 0#12 data s

/-- The slot FILTER wrote most recently, last(p) of 10_state.md R32. -/
def lastSlot (p : Fin 3) : Fin 3 :=
  if p = 0 then 2 else p - 1

/-- The value read from a CFG register: its stored fields, its reserved bits 0 (20_memory.md R47, R51). -/
def readCfg (s : State) : CfgReg → RegVal
  | .sercfg =>
    0#4 ++ s.cfg.ser.stopBits ++ 0#1 ++ parityCode s.cfg.ser.parityKind ++
      BitVec.ofBool s.cfg.ser.parityBits ++ s.cfg.ser.dataBits
  | .chancfg => 0#14 ++ BitVec.ofBool s.cfg.txCh ++ BitVec.ofBool s.cfg.rxCh
  | .window => s.cfg.window.setWidth 16
  | .hyst => s.cfg.hyst.setWidth 16
  | .offset => s.cfg.offset
  | .spb => s.cfg.spb
  | .levelT => s.cfg.levelT
  | .thresh j => s.cfg.thresh[j.val]
  | .coef i => s.tab.coef[i.val]
  | .step f => s.tab.step[f.val]
  | .lut i => (s.tab.lut[i.val]).setWidth 16

/-- The value read from an RO register (10_state.md R18, R19, R32); unused high bits read 0. -/
def readRo (s : State) : RoReg → RegVal
  | .id => Config.idValue
  | .version => Config.versionValue
  | .decOff => s.rx.dec.off
  | .decBit => s.rx.dec.bit.setWidth 16
  | .decByte => s.rx.dec.byte.setWidth 16
  | .decPar => bitAt 0 s.rx.dec.par
  | .decLast => s.rx.dec.last
  | .discCur => s.rx.cur
  | .enPtr0 => BitVec.ofNat 16 s.rx.es.space.ptr.val
  | .enPtr1 => BitVec.ofNat 16 s.rx.es.mark.ptr.val
  | .enSum0 j => part64 s.rx.es.space.sum j
  | .enSum1 j => part64 s.rx.es.mark.sum j
  | .txCur0 => s.tx.byte.cur.extractLsb' 0 16
  | .txCur1 => bitAt 0 (s.tx.byte.cur.getLsbD 16)
  | .txNxt0 => s.tx.byte.nxt.extractLsb' 0 16
  | .txNxt1 => bitAt 0 (s.tx.byte.nxt.getLsbD 16)
  | .txRem => s.tx.byte.rem.setWidth 16
  | .txTimer => s.tx.byte.timer
  | .txTone => bitAt 0 s.tx.byte.tone
  | .txPhase => s.tx.phase
  | .fltY0 j => part32 (s.rx.fs.space.yout[(lastSlot s.rx.fs.space.p).val]) j
  | .fltY1 j => part32 (s.rx.fs.mark.yout[(lastSlot s.rx.fs.mark.p).val]) j
  | .fltPtr => BitVec.ofNat 16 (s.rx.fs.space.p.val + 4 * s.rx.fs.mark.p.val)

/-- READ: the value of a mapped register (20_memory.md R47). -/
def readReg (s : State) : RegName → RegVal
  | .ro r => readRo s r
  | .status => statusWord s
  | .cfg r => readCfg s r

/-- The SERCFG fields of a written value (10_state.md R21). -/
def serOfVal (v : RegVal) : SerCfg :=
  { dataBits := v.extractLsb' 0 4
    parityBits := v.getLsbD 4
    parityKind := parityOfCode (v.extractLsb' 5 2)
    stopBits := v.extractLsb' 8 4 }

/-- The write of a CFG register that is not locked: its defined bits take the bits of v, the value given for
its reserved bits is dropped (20_memory.md R50, R51). -/
def writeCfg (r : CfgReg) (v : RegVal) (s : State) : State :=
  match r with
  | .sercfg => { s with cfg := { s.cfg with ser := serOfVal v } }
  | .chancfg => { s with cfg := { s.cfg with rxCh := v.getLsbD 0, txCh := v.getLsbD 1 } }
  | .window => { s with cfg := { s.cfg with window := v.extractLsb' 0 7 } }
  | .hyst => { s with cfg := { s.cfg with hyst := v.extractLsb' 0 15 } }
  | .offset => { s with cfg := { s.cfg with offset := v } }
  | .spb => { s with cfg := { s.cfg with spb := v } }
  | .levelT => { s with cfg := { s.cfg with levelT := v } }
  | .thresh j => { s with cfg := { s.cfg with thresh := s.cfg.thresh.set j.val v } }
  | .coef i => { s with tab := { s.tab with coef := s.tab.coef.set i.val v } }
  | .step f => { s with tab := { s.tab with step := s.tab.step.set f.val v } }
  | .lut i => { s with tab := { s.tab with lut := s.tab.lut.set i.val (v.extractLsb' 0 15) } }

/-- The write of STATUS (10_state.md R20). -/
def writeStatus (v : RegVal) (s : State) : State :=
  { s with ctl := clearSticky v s.ctl }

/-- The configuration lock: a session is enabled (20_memory.md R52). -/
def configLocked (s : State) : Bool :=
  s.ctl.rxEn || s.ctl.txEn

/-- RESET(): every state element takes its reset value (70_reset_and_hazards.md R172). The inputs the host
has still to issue and the responses it has received are the host's, not the block's, and stay (log
entry 4). -/
def resetBlock (s : State) : State :=
  { State.reset with inputs := s.inputs, responses := s.responses }

/-- RX_INIT(): the receive session's initial state (70_reset_and_hazards.md R174). -/
def rxInit : RxSession :=
  { fs := { space := FilterState.reset, mark := FilterState.reset }
    es := { space := EnergyState.reset, mark := EnergyState.reset }
    cur := 0#16
    dec := { off := 0xFFFF#16, last := 0#16, bit := 0#5, byte := 0#8, par := false } }

/-- TX_INIT(): the transmit session's initial state, idle on the mark tone (70_reset_and_hazards.md R175). -/
def txInit : TxSession :=
  { byte := { cur := 0#17, nxt := 0#17, rem := 0#5, full := false, tone := true, timer := 0#16 }
    phase := 0#16 }

/-- The next input and the state once it has been taken, none when the host has issued none (00_scope.md
R11, 20_memory.md R57). -/
def takeInput (s : State) : Option (PortInput × State) :=
  match s.inputs with
  | [] => none
  | i :: rest => some (i, { s with inputs := rest })

/-- The state with one more command word in front of the inputs not yet taken. -/
def issueFirst (c : CommandWord) (s : State) : State :=
  { s with inputs := .command c :: s.inputs }

end Sys2Proof.Machine
end

