-- ==== Sys2Proof/Machine/Control.lean ====
section
/-! DEFINITION. The control commands NOP, SRST, RDREG, WRREG, START and STOP: spec/47_control.md R144 to
R151. -/

namespace Sys2Proof.Machine

/-- NOP (47_control.md R144). -/
def execNop (s : State) : StepOutcome :=
  respond .ok 0#12 0#16 s

/-- SRST (47_control.md R145). -/
def execSrst (s : State) : StepOutcome :=
  respond .ok 0#12 0#16 (resetBlock s)

/-- RDREG REG (47_control.md R146). -/
def execRdreg (reg : RegNum) (s : State) : StepOutcome :=
  match regOf reg with
  | none => raise .badreg 0#16 s
  | some r => respond .ok 0#12 (readReg s r) s

/-- WRREG REG, VAL (47_control.md R147). -/
def execWrreg (reg : RegNum) (val : RegVal) (s : State) : StepOutcome :=
  match regOf reg with
  | none => raise .badreg 0#16 s
  | some (.ro _) => raise .readonly 0#16 s
  | some .status => respond .ok 0#12 0#16 (writeStatus val s)
  | some (.cfg r) => if configLocked s then raise .locked 0#16 s else respond .ok 0#12 0#16 (writeCfg r val s)

/-- A value outside the legal counts 1 to 32767 of OFFSET and SPB (47_control.md R149). -/
def badCount (v : BitVec 16) : Bool :=
  decide (v.toNat < 1 ∨ v.toNat > Config.countMax)

/-- CHECK(RX, TX): the mask of the configuration checks that fail for the selected pipelines
(47_control.md R149). -/
def checkMask (rx tx : Bool) (c : ConfigRegs) : RegVal :=
  bitAt 0 ((rx || tx) && decide (c.ser.numData < 1 ∨ c.ser.numData > Config.dataBitsMax)) |||
  bitAt 1 ((rx || tx) && decide (c.ser.numStop = 0)) |||
  bitAt 2 ((rx || tx) &&
    decide (c.ser.numData + c.ser.numParity + c.ser.numStop > Config.frameBitsMax)) |||
  bitAt 3 (rx && decide (c.window.toNat < 1 ∨ c.window.toNat > Config.wmax)) |||
  bitAt 4 (rx && badCount c.offset) |||
  bitAt 5 ((rx || tx) && badCount c.spb)

/-- The sessions START opens: RX_INIT and RX_EN, TX_INIT and TX_EN (47_control.md R148). -/
def openSessions (rx tx : Bool) (s : State) : State :=
  { s with
    ctl := { s.ctl with rxEn := s.ctl.rxEn || rx, txEn := s.ctl.txEn || tx }
    rx := if rx then rxInit else s.rx
    tx := if tx then txInit else s.tx }

/-- START mask (47_control.md R148). -/
def execStart (rx tx : Bool) (s : State) : StepOutcome :=
  if checkMask rx tx s.cfg ≠ 0#16 then raise .config (checkMask rx tx s.cfg) s
  else respond .ok 0#12 0#16 (openSessions rx tx s)

/-- STOP mask: the enables are cleared, the session state is retained (47_control.md R151). -/
def execStop (rx tx : Bool) (s : State) : StepOutcome :=
  respond .ok 0#12 0#16
    { s with ctl := { s.ctl with rxEn := s.ctl.rxEn && !rx, txEn := s.ctl.txEn && !tx } }

end Sys2Proof.Machine
end

