-- ==== Sys2Proof/Machine/Decoder.lean ====
section
/-! DEFINITION. The bit and byte decoder: DECODE of spec/44_decoder.md R106, the state machine that frames
bits into bytes. -/

namespace Sys2Proof.Machine

/-- What DECODE returns: (bv, out, fe, pe, rp) (44_decoder.md R106). -/
structure DecodeResult where
  /-- A byte was emitted. -/
  bv : Bool
  /-- The emitted byte, 0 when none. -/
  out : Byte
  /-- Framing error. -/
  fe : Bool
  /-- The emitted byte's parity bit mismatches. -/
  pe : Bool
  /-- The received parity bit. -/
  rp : Bool
  deriving DecidableEq, Repr

/-- The result of a step at which nothing is reported. -/
def quietResult : DecodeResult :=
  { bv := false, out := 0#8, fe := false, pe := false, rp := false }

/-- The bit read at a sampling instant: 1 if level ≥ LEVEL_T (44_decoder.md R105). -/
def bitOfLevel (threshold level : Level) : Bool :=
  decide (threshold.toInt ≤ level.toInt)

/-- Back to idle: off = -1, bit = 0, byte = 0, par = 0; `last` is not touched (44_decoder.md R113, R115). -/
def decoderIdle (d : DecoderState) : DecoderState :=
  { d with off := 0xFFFF#16, bit := 0#5, byte := 0#8, par := false }

/-- The bit read at the frame position DEC.bit: none is a bad start or stop bit, and otherwise the bit is
accepted, a data bit into DEC.byte and a parity bit into DEC.par (44_decoder.md R109 to R112). -/
def acceptBit (ser : SerCfg) (d : DecoderState) (b : Bool) : Option DecoderState :=
  let i := d.bit.toNat
  if i < 1 then
    if b then none else some d
  else if i < ser.parStart then
    some { d with byte := d.byte ||| BitVec.ofNat 8 (b.toNat * 2 ^ (i - 1)) }
  else if i < ser.stopStart then
    some { d with par := b }
  else
    if b then some d else none

/-- The result of a complete frame: the byte, and when P = 1 the received parity bit and whether it
mismatches (44_decoder.md R111, R113). -/
def emitByte (ser : SerCfg) (d : DecoderState) : DecodeResult :=
  { bv := true
    out := d.byte
    fe := false
    pe := ser.parityBits && (d.par != parityOf ser.parityKind d.byte)
    rp := ser.parityBits && d.par }

/-- A sampling instant: the bit is refused (44_decoder.md R115), or completes the frame (R113), or the
countdown is rearmed with SPB for the next bit (R114). -/
def sampleBit (cfg : ConfigRegs) (d : DecoderState) (b : Bool) : DecoderState × DecodeResult :=
  match acceptBit cfg.ser d b with
  | none => (decoderIdle d, { quietResult with fe := true })
  | some d' =>
    if d.bit.toNat = cfg.ser.numFrame - 1 then (decoderIdle d', emitByte cfg.ser d')
    else ({ d' with bit := d.bit + 1#5, off := cfg.spb }, quietResult)

/-- The countdown part of DECODE: while armed, off is decremented, and the step at which it reaches 0 is a
sampling instant (44_decoder.md R106, R108). -/
def countDown (cfg : ConfigRegs) (d : DecoderState) (level : Level) : DecoderState × DecodeResult :=
  if 0 < d.off.toInt then
    let d' := { d with off := d.off - 1#16 }
    if d'.off = 0#16 then sampleBit cfg d' (bitOfLevel cfg.levelT level) else (d', quietResult)
  else (d, quietResult)

/-- The falling-edge test, after the countdown: with bit = 0, a level below LEVEL_T after one at or above it
arms the countdown with OFFSET (44_decoder.md R107). -/
def armOnEdge (cfg : ConfigRegs) (d : DecoderState) (level : Level) : DecoderState :=
  if d.bit = 0#5 ∧ level.toInt < cfg.levelT.toInt ∧ cfg.levelT.toInt ≤ d.last.toInt then
    { d with off := cfg.offset }
  else d

/-- DECODE(level): the countdown, then the falling-edge test, then last <- level (44_decoder.md R106). -/
def decodeLevel (cfg : ConfigRegs) (d : DecoderState) (level : Level) : DecoderState × DecodeResult :=
  let r := countDown cfg d level
  ({ armOnEdge cfg r.1 level with last := level }, r.2)

end Sys2Proof.Machine
end

