-- ==== Sys2Proof/Machine/Discriminator.lean ====
section
/-! DEFINITION. The tone discriminator: DISCRIMINATE of spec/43_discriminator.md R99. -/

namespace Sys2Proof.Machine

/-- DISCRIMINATE(a, b): the counter after one step, which is also the level (43_discriminator.md R99, R101).
a is the mark-indicating and b the space-indicating energy, compared unsigned as kept (R98). -/
def discriminate (h : BitVec 15) (cur : Level) (a b : Energy) : Level :=
  BitVec.ofInt 16 (clamp (cur.toInt + sgn3 a.toNat b.toNat) (-(h.toNat : Int)) h.toNat)

end Sys2Proof.Machine
end

