-- ==== Sys2Proof/Machine/EnergyEstimator.lean ====
section
/-! DEFINITION. The energy estimator: ENERGY of spec/42_energy.md R90. -/

namespace Sys2Proof.Machine

/-- The exact square of a filter output, at most 2^62 (42_energy.md R91). -/
def squareOf (y : FiltWord) : Energy :=
  BitVec.ofInt 64 (y.toInt * y.toInt)

/-- ENERGY: one update of an estimator with window size w (42_energy.md R90). The square leaving the window
is subtracted and the new one added, both modulo 2^64 (R92); the pointer wraps at w, and the update that
wraps it primes the estimator (R93). -/
def energyStep (w : Nat) (es : EnergyState) (y : FiltWord) : EnergyState :=
  let q := squareOf y
  let wraps := decide (w ≤ es.ptr.val + 1)
  { win := es.win.set es.ptr.val q
    sum := es.sum - es.win[es.ptr.val] + q
    ptr := if wraps then 0 else Fin.ofNat 64 (es.ptr.val + 1)
    primed := es.primed || wraps }

end Sys2Proof.Machine
end

