-- ==== Sys2Proof/Machine/FilterBank.lean ====
section
/-! DEFINITION. The biquad filter bank: FILTER of spec/41_filter_bank.md R83 on the two filter states of a
receive session. -/

namespace Sys2Proof.Machine

/-- The slot FILTER writes next, p -> p + 1 modulo 3 by comparison (41_filter_bank.md R83, R84). -/
def nextSlot (p : Fin 3) : Fin 3 :=
  if p = 2 then 0 else p + 1

/-- The exact sum of FILTER's five products, each reduced by mulq before it is added (41_filter_bank.md R83,
R86), with b2 = b0 and a1 = b1 (R82). -/
def filterSum (b0 b1 a2 x x1 x2 y1 y2 : Int) : Int :=
  mulq b0 x + mulq b1 x1 + mulq b0 x2 - mulq b1 y1 - mulq a2 y2

/-- FILTER: one step of a filter slot with coefficients b0, b1, a2 on its state (41_filter_bank.md R83).
The slot before p holds in[n-1] and out[n-1], the slot after it in[n-2] and out[n-2]. -/
def filterStep (b0 b1 a2 : Int) (fs : FilterState) (x : FiltWord) : FilterState × FiltWord :=
  let i1 := lastSlot fs.p
  let i2 := nextSlot fs.p
  let acc := filterSum b0 b1 a2 x.toInt (fs.xin[i1.val]).toInt (fs.xin[i2.val]).toInt
    (fs.yout[i1.val]).toInt (fs.yout[i2.val]).toInt
  let y := BitVec.ofInt 32 acc
  ({ xin := fs.xin.set fs.p.val x, yout := fs.yout.set fs.p.val y, p := nextSlot fs.p }, y)

/-- FILTER(f, t, x) with the coefficients of slot f (41_filter_bank.md R82, R83). -/
def filterSlot (tab : Tables) (f : Fin 4) (fs : FilterState) (x : FiltWord) : FilterState × FiltWord :=
  filterStep (coefOf tab f 0) (coefOf tab f 1) (coefOf tab f 2) fs x

end Sys2Proof.Machine
end

