-- ==== Sys2Proof/Machine/Receive.lean ====
section
/-! DEFINITION. The RX_SAMPLE command: the whole decode pipeline on one input sample (spec/44_decoder.md
R117 to R119). -/

namespace Sys2Proof.Machine

/-- FILTER and ENERGY on both tones of the receive channel (44_decoder.md R117, 41_filter_bank.md R81). -/
def filterAndEnergy (cfg : ConfigRegs) (tab : Tables) (rx : RxSession) (x : FiltWord) : RxSession :=
  let f0 := filterSlot tab (slotOf cfg.rxCh false) rx.fs.space x
  let f1 := filterSlot tab (slotOf cfg.rxCh true) rx.fs.mark x
  { rx with
    fs := { space := f0.1, mark := f1.1 }
    es :=
      { space := energyStep cfg.window.toNat rx.es.space f0.2
        mark := energyStep cfg.window.toNat rx.es.mark f1.2 } }

/-- The low-signal gate: e0 + e1 < THRESH, the sum exact (44_decoder.md R119). -/
def lowSignal (cfg : ConfigRegs) (rx : RxSession) : Bool :=
  decide (rx.es.space.sum.toNat + rx.es.mark.sum.toNat < (threshOf cfg).toNat)

/-- DISCRIMINATE on the two sums, the mark-indicating one first (44_decoder.md R117, 43_discriminator.md
R98). -/
def levelOf (cfg : ConfigRegs) (rx : RxSession) : Level :=
  discriminate cfg.hyst rx.cur rx.es.mark.sum rx.es.space.sum

/-- The response flags of a sample that reached DECODE (44_decoder.md R117, 30_encoding.md R73). -/
def decodeFlags (r : DecodeResult) : BitVec 12 :=
  flagBV r.bv ||| flagFE r.fe ||| flagPE r.pe ||| flagRP r.rp

/-- RX_SAMPLE past the gates: the discriminator and the decoder advance, and a framing error or a parity
mismatch sets its sticky bit (44_decoder.md R117). -/
def advanceDecoder (s : State) : StepOutcome :=
  let level := levelOf s.cfg s.rx
  let d := decodeLevel s.cfg s.rx.dec level
  respond .ok (decodeFlags d.2) (d.2.out.setWidth 16)
    { s with
      rx := { s.rx with cur := level, dec := d.1 }
      ctl := { s.ctl with feSeen := s.ctl.feSeen || d.2.fe, peSeen := s.ctl.peSeen || d.2.pe } }

/-- RX_SAMPLE SAMPLE (44_decoder.md R117). -/
def execRxSample (sample : Sample) (s : State) : StepOutcome :=
  if !s.ctl.rxEn then raise .disabled 0#16 s
  else
    let s1 := { s with rx := filterAndEnergy s.cfg s.tab s.rx (inputOf sample) }
    if !s1.rx.es.space.primed then respond .ok (flagNP true) 0#16 s1
    else if lowSignal s1.cfg s1.rx then
      respond .ok (flagLS true) 0#16 { s1 with ctl := { s1.ctl with lsSeen := true } }
    else advanceDecoder s1

end Sys2Proof.Machine
end

