-- ==== Sys2Proof/Machine/Synthesizer.lean ====
section
/-! DEFINITION. The sample synthesizer: SYNTH of spec/45_synthesizer.md R124. -/

namespace Sys2Proof.Machine

/-- The table index value: the top 8 bits of the phase (45_synthesizer.md R125). -/
def synthIndex (phase : Phase) : BitVec 8 :=
  phase.extractLsb' 8 8

/-- The quarter-wave index: the low 6 bits of the index value, folded in a descending quarter
(45_synthesizer.md R124, R125). -/
def quarterIndex (idx : BitVec 8) : BitVec 6 :=
  if idx.getLsbD 6 then idx.extractLsb' 0 6 ^^^ 0x3F#6 else idx.extractLsb' 0 6

/-- The output sample at a phase, negative in the second half cycle (45_synthesizer.md R124, R126). -/
def synthSample (lut : Vector LutEntry 64) (phase : Phase) : Int :=
  let idx := synthIndex phase
  let a : Int := (lut[(quarterIndex idx).toNat]'(quarterIndex idx).isLt).toNat
  if idx.getLsbD 7 then -a else a

/-- The phase after the sample: advanced by step modulo 2^16, after the table is read (45_synthesizer.md
R127). -/
def synthAdvance (phase step : Phase) : Phase :=
  phase + step

end Sys2Proof.Machine
end

