-- ==== Sys2Proof/Machine/Transmit.lean ====
section
/-! DEFINITION. The byte transmit state machine and its commands TX_PUSH and TX_SAMPLE: spec/46_transmit.md
R131 to R143. -/

namespace Sys2Proof.Machine

/-- v = BYTE mod 2^D (46_transmit.md R133). -/
def maskData (ser : SerCfg) (byte : Byte) : Byte :=
  BitVec.ofNat 8 (byte.toNat % 2 ^ ser.numData)

/-- PB: the parity bit of the frame, 0 when P = 0 (46_transmit.md R131). -/
def frameParity (ser : SerCfg) (v : Byte) : Bool :=
  ser.parityBits && parityOf ser.parityKind v

/-- FRAME(v) = 2·v + PB·2^(D+1) + (2^ST - 1)·2^(1+D+P), in the 17 bits of a transmit word (46_transmit.md
R131; log entry 6). -/
def frameWord (ser : SerCfg) (v : Byte) : TxWord :=
  BitVec.ofNat 17
    (2 * v.toNat + (frameParity ser v).toNat * 2 ^ (ser.numData + 1) +
      (2 ^ ser.numStop - 1) * 2 ^ ser.stopStart)

/-- PROMOTE(): the pending word becomes the current one; nxt keeps its value (46_transmit.md R136). -/
def promote (ser : SerCfg) (b : ByteState) : ByteState :=
  { b with cur := b.nxt, rem := BitVec.ofNat 5 ser.numFrame, full := false, tone := b.nxt.getLsbD 0 }

/-- The shift of a bit boundary: the bit cur[0] has been sent (46_transmit.md R137). -/
def shiftOut (b : ByteState) : ByteState :=
  if 0 < b.rem.toNat then { b with cur := b.cur >>> 1, rem := b.rem - 1#5 } else b

/-- The tone of the bit being sent, mark while idle (46_transmit.md R134, R137). -/
def toneOf (b : ByteState) : Bool :=
  if 0 < b.rem.toNat then b.cur.getLsbD 0 else true

/-- TICK(): one bit boundary, and whether it promoted the pending word (46_transmit.md R137). -/
def tick (ser : SerCfg) (b : ByteState) : ByteState × Bool :=
  let b1 := shiftOut b
  if b1.rem.toNat = 0 ∧ b1.full = true then (promote ser b1, true)
  else ({ b1 with tone := toneOf b1 }, false)

/-- The transmit state after TX_PUSH has filled the pending slot with a byte, and whether the byte was
promoted at once: when idle it is, and the bit timer restarts (46_transmit.md R135, R142). -/
def pushByte (cfg : ConfigRegs) (byte : Byte) (b : ByteState) : ByteState × Bool :=
  let b1 := { b with nxt := frameWord cfg.ser (maskData cfg.ser byte), full := true }
  if b1.rem.toNat = 0 then ({ promote cfg.ser b1 with timer := cfg.spb }, true) else (b1, false)

/-- TX_PUSH BYTE (46_transmit.md R135). -/
def execTxPush (byte : Byte) (s : State) : StepOutcome :=
  if !s.ctl.txEn then raise .disabled 0#16 s
  else if s.tx.byte.full then raise .overrun 0#16 { s with ctl := { s.ctl with ovrSeen := true } }
  else
    let p := pushByte s.cfg byte s.tx.byte
    respond .ok (flagPromoted p.2) 0#16 { s with tx := { s.tx with byte := p.1 } }

/-- What the bit boundary test of TX_SAMPLE did: whether there was a tick, and whether it promoted. -/
structure Boundary where
  /-- The transmit state after the test. -/
  byte : ByteState
  /-- TICK: a bit boundary occurred. -/
  tick : Bool
  /-- PROMOTED: the tick promoted the pending word. -/
  promoted : Bool
  deriving DecidableEq, Repr

/-- The bit boundary test of TX_SAMPLE: at timer = 0, TICK, and the timer is loaded with SPB
(46_transmit.md R138). -/
def bitBoundary (cfg : ConfigRegs) (b : ByteState) : Boundary :=
  if b.timer = 0#16 then
    let t := tick cfg.ser b
    { byte := { t.1 with timer := cfg.spb }, tick := true, promoted := t.2 }
  else { byte := b, tick := false, promoted := false }

/-- The response flags of TX_SAMPLE (46_transmit.md R138, 30_encoding.md R73). -/
def sampleFlags (k : Boundary) : BitVec 12 :=
  flagPromoted k.promoted ||| flagTick k.tick ||| flagTone k.byte.tone ||| flagBusy (txBusy k.byte) |||
    flagFull k.byte.full

/-- The transmit session after TX_SAMPLE: the phase advances by the step of the tone (45_synthesizer.md
R123) and the bit timer counts the sample (46_transmit.md R138). -/
def afterSample (cfg : ConfigRegs) (tab : Tables) (k : Boundary) (phase : Phase) : TxSession :=
  { byte := { k.byte with timer := k.byte.timer - 1#16 }
    phase := synthAdvance phase (stepOf tab (slotOf cfg.txCh k.byte.tone)) }

/-- TX_SAMPLE (46_transmit.md R138). -/
def execTxSample (s : State) : StepOutcome :=
  if !s.ctl.txEn then raise .disabled 0#16 s
  else
    let k := bitBoundary s.cfg s.tx.byte
    respond .ok (sampleFlags k) (BitVec.ofInt 16 (synthSample s.tab.lut s.tx.phase))
      { s with tx := afterSample s.cfg s.tab k s.tx.phase }

end Sys2Proof.Machine
end

