-- ==== Sys2Proof/Machine/Dispatch.lean ====
section
/-! DEFINITION. The dispatch of a decoded command to its meaning, one arm for each constructor of Instr. -/

namespace Sys2Proof.Machine

def exec (i : Instr) (s : State) : Host.Outcome State Fault Refusal :=
  match i with
  | .nop => Sys2Proof.Machine.execNop s
  | .srst => Sys2Proof.Machine.execSrst s
  | .rdreg reg => Sys2Proof.Machine.execRdreg reg s
  | .wrreg reg val => Sys2Proof.Machine.execWrreg reg val s
  | .start rx tx => Sys2Proof.Machine.execStart rx tx s
  | .stop rx tx => Sys2Proof.Machine.execStop rx tx s
  | .rxSample sample => Sys2Proof.Machine.execRxSample sample s
  | .txPush byte => Sys2Proof.Machine.execTxPush byte s
  | .txSample => Sys2Proof.Machine.execTxSample s

end Sys2Proof.Machine
end

