-- ==== Sys2Proof/Machine/Command.lean ====
section
/-! DEFINITION. Running one input of the port: a command word, legal or not, or the reset input. -/

namespace Sys2Proof.Machine

/-- One command word: the command it decodes to, or the status ILLEGAL and no state change
(30_encoding.md R75 to R77, 60_exceptions.md R158). -/
def runCommand (c : CommandWord) (s : State) : StepOutcome :=
  match decode c with
  | .ok i => exec i s
  | .error _ => raise .illegal 0#16 s

/-- One input: a command word, or the reset input, which has no response of its own
(70_reset_and_hazards.md R172). -/
def runInput (i : PortInput) (s : State) : StepOutcome :=
  match i with
  | .command c => runCommand c s
  | .resetInput => .next (resetBlock s)

/-- Between commands the block holds its state and does nothing (60_exceptions.md R168). -/
def waitForInput (s : State) : StepOutcome :=
  .next s

end Sys2Proof.Machine
end

