-- ==== Sys2Proof/Machine/Step.lean ====
section
/-! DEFINITION. One step of the block: the next input is taken and run whole (spec/20_memory.md R57), or,
when the host has issued none, the block waits (60_exceptions.md R168). -/

namespace Sys2Proof.Machine

/-- One step. -/
def step (s : State) : Host.Outcome State Fault Refusal :=
  match takeInput s with
  | none => waitForInput s
  | some (i, s') => runInput i s'

/-- The state with a command word placed where the step takes its next input from: the front of the inputs
the host has issued (log entry 2). -/
def State.withFetchWord (s : State) (nbits w : Nat) : State :=
  issueFirst (tableWord nbits w) s

end Sys2Proof.Machine
end

