-- ==== Sys2Proof/Machine/Assembler.lean ====
section
/-! DEFINITION. The assembler syntax of spec/30_encoding.md R78 and the pseudo-commands of R79: a line of
text to the commands it stands for. A text is a list of characters. What R78 leaves open of the lexical
form is fixed as log entry 10 says. -/

namespace Sys2Proof.Machine

/-- A pseudo-command with its operands assembled (30_encoding.md R79). -/
inductive PseudoCommand where
  /-- WR64 THRESH, v. -/
  | wr64Thresh (v : BitVec 64)
  /-- WRCOEF f, b0, b1, a2. -/
  | wrcoef (f : Fin 4) (b0 b1 a2 : RegVal)
  /-- RD64 n. -/
  | rd64 (n : RegNum)
  /-- CLRSTAT. -/
  | clrstat
  /-- TX_SAMPLES k. -/
  | txSamples (k : Nat)
  /-- RX_SAMPLES s1, ..., sk. -/
  | rxSamples (samples : List Sample)
  deriving DecidableEq, Repr

/-- The register number of COEF(f,k) (30_encoding.md R78, 10_state.md R29). -/
def coefNum (f : Fin 4) (k : Fin 3) : RegNum :=
  BitVec.ofNat 8 (0x10 + 3 * f.val + k.val)

/-- The commands a pseudo-command stands for, in order (30_encoding.md R79). -/
def expandPseudo : PseudoCommand → List Instr
  | .wr64Thresh v =>
    [ .wrreg 0x0C#8 (v.extractLsb' 0 16), .wrreg 0x0D#8 (v.extractLsb' 16 16),
      .wrreg 0x0E#8 (v.extractLsb' 32 16), .wrreg 0x0F#8 (v.extractLsb' 48 16) ]
  | .wrcoef f b0 b1 a2 => [.wrreg (coefNum f 0) b0, .wrreg (coefNum f 1) b1, .wrreg (coefNum f 2) a2]
  | .rd64 n => [.rdreg n, .rdreg (n + 1#8), .rdreg (n + 2#8), .rdreg (n + 3#8)]
  | .clrstat => [.wrreg 0x02#8 0x0F00#16]
  | .txSamples k => List.replicate k .txSample
  | .rxSamples samples => samples.map .rxSample

/-- A blank within a line. -/
def isBlank (c : Char) : Bool :=
  c == ' ' || c == '\t'

/-- A text without the blanks at its two ends. -/
def trimBlanks (t : List Char) : List Char :=
  ((t.dropWhile isBlank).reverse.dropWhile isBlank).reverse

/-- The part of a line before the `;` that starts its comment (30_encoding.md R78). -/
def stripComment (t : List Char) : List Char :=
  t.takeWhile (· != ';')

/-- The operands of a text: the parts between the commas that stand outside parentheses. -/
def splitOperands (depth : Nat) (part : List Char) : List Char → List (List Char)
  | [] => [trimBlanks part.reverse]
  | c :: rest =>
    if c = '(' then splitOperands (depth + 1) (c :: part) rest
    else if c = ')' then splitOperands (depth - 1) (c :: part) rest
    else if c = ',' ∧ depth = 0 then trimBlanks part.reverse :: splitOperands depth [] rest
    else splitOperands depth (c :: part) rest

/-- The value of a digit in base 16. -/
def digitValue (c : Char) : Option Nat :=
  if '0' ≤ c ∧ c ≤ '9' then some (c.toNat - '0'.toNat)
  else if 'a' ≤ c ∧ c ≤ 'f' then some (c.toNat - 'a'.toNat + 10)
  else if 'A' ≤ c ∧ c ≤ 'F' then some (c.toNat - 'A'.toNat + 10)
  else none

/-- The value of a run of digits in a base, none where a character is no digit of it. -/
def digitsValue (base acc : Nat) : List Char → Option Nat
  | [] => some acc
  | c :: rest =>
    match digitValue c with
    | some d => if d < base then digitsValue base (base * acc + d) rest else none
    | none => none

/-- A number without a sign: decimal, or hexadecimal with `0x` (30_encoding.md R78). -/
def unsignedValue : List Char → Option Nat
  | [] => none
  | ['0', 'x'] => none
  | '0' :: 'x' :: digits => digitsValue 16 0 digits
  | digits => digitsValue 10 0 digits

/-- A number, with `-` before it where it is negative (30_encoding.md R78). -/
def numberValue : List Char → Option Int
  | '-' :: digits => (unsignedValue digits).map fun n => -(n : Int)
  | digits => (unsignedValue digits).map fun n => (n : Int)

/-- A number of a range. -/
def numberIn (lo hi : Int) (t : List Char) : Option Int :=
  match numberValue t with
  | some n => if lo ≤ n ∧ n ≤ hi then some n else none
  | none => none

/-- An index below a bound. -/
def indexValue (bound : Nat) (t : List Char) : Option Nat :=
  (numberIn 0 ((bound : Int) - 1) t).map Int.toNat

/-- val, a number in [-32768, 65535], encoded as pat_16(val) (30_encoding.md R78). -/
def valOperand (t : List Char) : Option RegVal :=
  (numberIn (-32768) 65535 t).map (BitVec.ofInt 16)

/-- A sample: a number in [-32768, 32767], or a 16-bit hexadecimal pattern (30_encoding.md R78). -/
def sampleOperand (t : List Char) : Option Sample :=
  match t with
  | '0' :: 'x' :: _ => (numberIn 0 65535 t).map (BitVec.ofInt 16)
  | _ => (numberIn (-32768) 32767 t).map (BitVec.ofInt 16)

/-- The registers with a name of their own (10_state.md R17, R32). -/
def registerNames : List (String × RegNum) :=
  [ ("ID", 0x00#8), ("VERSION", 0x01#8), ("STATUS", 0x02#8), ("SERCFG", 0x04#8), ("CHANCFG", 0x05#8),
    ("WINDOW", 0x06#8), ("HYST", 0x07#8), ("OFFSET", 0x08#8), ("SPB", 0x09#8), ("LEVEL_T", 0x0A#8),
    ("THRESH0", 0x0C#8), ("THRESH1", 0x0D#8), ("THRESH2", 0x0E#8), ("THRESH3", 0x0F#8),
    ("STEP0", 0x1C#8), ("STEP1", 0x1D#8), ("STEP2", 0x1E#8), ("STEP3", 0x1F#8),
    ("DEC_OFF", 0x20#8), ("DEC_BIT", 0x21#8), ("DEC_BYTE", 0x22#8), ("DEC_PAR", 0x23#8),
    ("DEC_LAST", 0x24#8), ("DISC_CUR", 0x25#8), ("EN_PTR0", 0x26#8), ("EN_PTR1", 0x27#8),
    ("EN_SUM0_0", 0x28#8), ("EN_SUM0_1", 0x29#8), ("EN_SUM0_2", 0x2A#8), ("EN_SUM0_3", 0x2B#8),
    ("EN_SUM1_0", 0x2C#8), ("EN_SUM1_1", 0x2D#8), ("EN_SUM1_2", 0x2E#8), ("EN_SUM1_3", 0x2F#8),
    ("TX_CUR0", 0x30#8), ("TX_CUR1", 0x31#8), ("TX_NXT0", 0x32#8), ("TX_NXT1", 0x33#8),
    ("TX_REM", 0x34#8), ("TX_TIMER", 0x35#8), ("TX_TONE", 0x36#8), ("TX_PHASE", 0x37#8),
    ("FLT_Y0_0", 0x38#8), ("FLT_Y0_1", 0x39#8), ("FLT_Y1_0", 0x3A#8), ("FLT_Y1_1", 0x3B#8),
    ("FLT_PTR", 0x3C#8) ]

/-- The number of a named register. -/
def lookupName (t : List Char) : List (String × RegNum) → Option RegNum
  | [] => none
  | (name, n) :: rest => if name.toList = t then some n else lookupName t rest

/-- The indexed names COEF(f,k), STEP(f) and LUT(i), and LUT0 to LUT63 (30_encoding.md R78, 10_state.md
R17). -/
def indexedName : List Char → Option RegNum
  | 'C' :: 'O' :: 'E' :: 'F' :: '(' :: rest =>
    match splitOperands 0 [] rest.dropLast, rest.getLast? with
    | [f, k], some ')' =>
      match indexValue 4 f, indexValue 3 k with
      | some f, some k => some (BitVec.ofNat 8 (0x10 + 3 * f + k))
      | _, _ => none
    | _, _ => none
  | 'S' :: 'T' :: 'E' :: 'P' :: '(' :: rest =>
    if rest.getLast? = some ')' then
      (indexValue 4 (trimBlanks rest.dropLast)).map fun f => BitVec.ofNat 8 (0x1C + f)
    else none
  | 'L' :: 'U' :: 'T' :: '(' :: rest =>
    if rest.getLast? = some ')' then
      (indexValue 64 (trimBlanks rest.dropLast)).map fun i => BitVec.ofNat 8 (0x40 + i)
    else none
  | 'L' :: 'U' :: 'T' :: digits =>
    match digitsValue 10 0 digits with
    | some i => if digits ≠ [] ∧ i < 64 then some (BitVec.ofNat 8 (0x40 + i)) else none
    | none => none
  | _ => none

/-- reg: a number 0 to 255 or a register name (30_encoding.md R78). -/
def regOperand (t : List Char) : Option RegNum :=
  match numberIn 0 255 t with
  | some n => some (BitVec.ofInt 8 n)
  | none =>
    match lookupName t registerNames with
    | some n => some n
    | none => indexedName t

/-- mask: `rx`, `tx` or `rx,tx`, or a number 0 to 3 with bit 0 rx and bit 1 tx (30_encoding.md R78). -/
def maskOperand (operands : List (List Char)) : Option (Bool × Bool) :=
  if operands = ["rx".toList] then some (true, false)
  else if operands = ["tx".toList] then some (false, true)
  else if operands = ["rx".toList, "tx".toList] then some (true, true)
  else
    match operands with
    | [t] => (numberIn 0 3 t).map fun n => (n.toNat.testBit 0, n.toNat.testBit 1)
    | _ => none

/-- A list of samples, none where one is none. -/
def sampleOperands : List (List Char) → Option (List Sample)
  | [] => some []
  | t :: rest =>
    match sampleOperand t, sampleOperands rest with
    | some x, some xs => some (x :: xs)
    | _, _ => none

/-- A pseudo-command of its mnemonic and operands (30_encoding.md R79). -/
def pseudoOf (mnemonic : List Char) (operands : List (List Char)) : Option PseudoCommand :=
  if mnemonic = "WR64".toList then
    match operands with
    | [name, v] =>
      if name = "THRESH".toList then
        (numberIn 0 (2 ^ 64 - 1) v).map fun n => .wr64Thresh (BitVec.ofInt 64 n)
      else none
    | _ => none
  else if mnemonic = "WRCOEF".toList then
    match operands with
    | [f, b0, b1, a2] =>
      match indexValue 4 f, valOperand b0, valOperand b1, valOperand a2 with
      | some f, some b0, some b1, some a2 => some (.wrcoef (Fin.ofNat 4 f) b0 b1 a2)
      | _, _, _, _ => none
    | _ => none
  else if mnemonic = "RD64".toList then
    match operands with
    | [t] =>
      match regOperand t with
      | some n => if n = 0x0C#8 ∨ n = 0x28#8 ∨ n = 0x2C#8 then some (.rd64 n) else none
      | none => none
    | _ => none
  else if mnemonic = "CLRSTAT".toList then
    if operands = [] then some .clrstat else none
  else if mnemonic = "TX_SAMPLES".toList then
    match operands with
    | [t] =>
      match numberValue t with
      | some n => if 0 ≤ n then some (.txSamples n.toNat) else none
      | none => none
    | _ => none
  else if mnemonic = "RX_SAMPLES".toList then
    if operands = [] then none else (sampleOperands operands).map .rxSamples
  else none

/-- A command of its mnemonic and operands (30_encoding.md R78). -/
def instrOf (mnemonic : List Char) (operands : List (List Char)) : Option Instr :=
  if mnemonic = "NOP".toList then if operands = [] then some .nop else none
  else if mnemonic = "SRST".toList then if operands = [] then some .srst else none
  else if mnemonic = "TX_SAMPLE".toList then if operands = [] then some .txSample else none
  else if mnemonic = "RDREG".toList then
    match operands with
    | [reg] => (regOperand reg).map .rdreg
    | _ => none
  else if mnemonic = "WRREG".toList then
    match operands with
    | [reg, val] =>
      match regOperand reg, valOperand val with
      | some r, some v => some (.wrreg r v)
      | _, _ => none
    | _ => none
  else if mnemonic = "START".toList then (maskOperand operands).map fun m => .start m.1 m.2
  else if mnemonic = "STOP".toList then (maskOperand operands).map fun m => .stop m.1 m.2
  else if mnemonic = "RX_SAMPLE".toList then
    match operands with
    | [t] => (sampleOperand t).map .rxSample
    | _ => none
  else if mnemonic = "TX_PUSH".toList then
    match operands with
    | [t] => (numberIn 0 255 t).map fun n => .txPush (BitVec.ofInt 8 n)
    | _ => none
  else none

/-- The commands of one line: its command, or what its pseudo-command stands for, or none at all for a line
that holds at most a comment (30_encoding.md R78, R79). The outer none: the line is not of the syntax. -/
def assembleLine (line : List Char) : Option (List Instr) :=
  let t := trimBlanks (stripComment line)
  if t = [] then some []
  else
    let mnemonic := t.takeWhile fun c => !isBlank c
    let rest := trimBlanks (t.dropWhile fun c => !isBlank c)
    let operands := if rest = [] then [] else splitOperands 0 [] rest
    match instrOf mnemonic operands with
    | some i => some [i]
    | none => (pseudoOf mnemonic operands).map expandPseudo

/-- The commands of a program, one command per line (30_encoding.md R78). -/
def assembleLines : List (List Char) → Option (List Instr)
  | [] => some []
  | line :: rest =>
    match assembleLine line, assembleLines rest with
    | some a, some b => some (a ++ b)
    | _, _ => none

end Sys2Proof.Machine
end

