-- ==== Sys2Proof/Safety.lean ====
section
/-! DEFINITION. The terms in which claims about the block are made: the invariants of spec/10_state.md R42,
legal configurations (47_control.md R149), the fields of a response word (30_encoding.md R72), runs of
commands and of the internal operations, and reference functions written from the rules' own formulas. -/

namespace Sys2Proof.Machine

/-! ### Legal configurations (10_state.md R21 to R26, 47_control.md R149) -/

/-- SERCFG is legal for START. -/
abbrev SerialLegal (c : SerCfg) : Prop :=
  (1 ≤ c.numData ∧ c.numData ≤ 8) ∧ 1 ≤ c.numStop ∧ c.numData + c.numParity + c.numStop ≤ 16

/-- A count register, OFFSET or SPB, is legal for START. -/
abbrev CountLegal (v : BitVec 16) : Prop :=
  1 ≤ v.toNat ∧ v.toNat ≤ 32767

/-- The configuration is legal for a transmit session. -/
abbrev TxConfigLegal (c : ConfigRegs) : Prop :=
  SerialLegal c.ser ∧ CountLegal c.spb

/-- The configuration is legal for a receive session. -/
abbrev RxConfigLegal (c : ConfigRegs) : Prop :=
  TxConfigLegal c ∧ (1 ≤ c.window.toNat ∧ c.window.toNat ≤ 64) ∧ CountLegal c.offset

/-! ### The invariants of 10_state.md R42 -/

/-- The sum of the first w entries of a window, as a natural number. -/
def windowTotal (w : Nat) (win : Vector Energy 64) : Nat :=
  ((win.toList.take w).map BitVec.toNat).sum

/-- DEC.off ∈ {-1} ∪ [1, 32767], DEC.bit < N_FRAME, DEC.bit ≥ 1 implies DEC.off ≥ 1, DEC.byte < 2^D. -/
abbrev DecoderOk (c : SerCfg) (d : DecoderState) : Prop :=
  (d.off.toInt = -1 ∨ 1 ≤ d.off.toInt) ∧ d.bit.toNat < c.numFrame ∧
    (1 ≤ d.bit.toNat → 1 ≤ d.off.toInt) ∧ d.byte.toNat < 2 ^ c.numData

/-- DISC.cur ∈ [-H, H]. -/
abbrev LevelOk (h : BitVec 15) (cur : Level) : Prop :=
  -(h.toNat : Int) ≤ cur.toInt ∧ cur.toInt ≤ h.toNat

/-- The two estimators in lockstep, the pointer below the window size, each sum that of its window modulo
2^64 (42_energy.md R92, R96). -/
abbrev EnergyOk (w : Nat) (es : PerTone EnergyState) : Prop :=
  es.space.ptr = es.mark.ptr ∧ es.space.ptr.val < w ∧ es.space.primed = es.mark.primed ∧
    es.space.sum.toNat = windowTotal w es.space.win % 2 ^ 64 ∧
    es.mark.sum.toNat = windowTotal w es.mark.win % 2 ^ 64

/-- TX.rem ≤ N_FRAME, TX.full implies TX.rem ≥ 1, TX.timer ≤ SPB. -/
abbrev ByteOk (c : ConfigRegs) (b : ByteState) : Prop :=
  b.rem.toNat ≤ c.ser.numFrame ∧ (b.full = true → 1 ≤ b.rem.toNat) ∧ b.timer.toNat ≤ c.spb.toNat

/-- What holds of the receive pipeline while its session is enabled. -/
abbrev RxInv (s : State) : Prop :=
  RxConfigLegal s.cfg ∧ DecoderOk s.cfg.ser s.rx.dec ∧ LevelOk s.cfg.hyst s.rx.cur ∧
    EnergyOk s.cfg.window.toNat s.rx.es

/-- What holds of the transmit pipeline while its session is enabled. -/
abbrev TxInv (s : State) : Prop :=
  TxConfigLegal s.cfg ∧ ByteOk s.cfg s.tx.byte

/-- The invariants of 10_state.md R42: each pipeline's hold while its session is enabled. -/
abbrev SessionInv (s : State) : Prop :=
  (s.ctl.rxEn = true → RxInv s) ∧ (s.ctl.txEn = true → TxInv s)

/-! ### Responses -/

/-- STATUS, bits 31:28 of a response. -/
def statusField (p : ResponseWord) : Nat :=
  (p.extractLsb' 28 4).toNat

/-- FLAGS, bits 27:16 of a response. -/
def flagsField (p : ResponseWord) : BitVec 12 :=
  p.extractLsb' 16 12

/-- DATA, bits 15:0 of a response. -/
def dataField (p : ResponseWord) : BitVec 16 :=
  p.extractLsb' 0 16

/-- The two states have the same block state: all but the port. -/
abbrev SameBlock (s t : State) : Prop :=
  t.cfg = s.cfg ∧ t.tab = s.tab ∧ t.ctl = s.ctl ∧ t.rx = s.rx ∧ t.tx = s.tx

/-! ### Initial values (10_state.md R44) -/

/-- A FilterState with every history entry and the pointer 0. -/
abbrev FilterCleared (f : FilterState) : Prop :=
  (∀ j : Fin 3, f.xin[j.val] = 0#32 ∧ f.yout[j.val] = 0#32) ∧ f.p.val = 0

/-- An EnergyState with every entry, the sum and the pointer 0, and not primed. -/
abbrev EnergyCleared (e : EnergyState) : Prop :=
  (∀ j : Fin 64, e.win[j.val] = 0#64) ∧ e.sum = 0#64 ∧ e.ptr.val = 0 ∧ e.primed = false

/-- The receive session's initial state: cleared, the decoder idle (70_reset_and_hazards.md R174). -/
abbrev RxInitial (rx : RxSession) : Prop :=
  FilterCleared rx.fs.space ∧ FilterCleared rx.fs.mark ∧ EnergyCleared rx.es.space ∧
    EnergyCleared rx.es.mark ∧ rx.cur = 0#16 ∧ rx.dec.off.toInt = -1 ∧ rx.dec.last = 0#16 ∧
    rx.dec.bit = 0#5 ∧ rx.dec.byte = 0#8 ∧ rx.dec.par = false

/-- The transmit session cleared, on a given tone (70_reset_and_hazards.md R172, R175). -/
abbrev TxCleared (tone : Bool) (tx : TxSession) : Prop :=
  tx.byte.cur = 0#17 ∧ tx.byte.nxt = 0#17 ∧ tx.byte.rem = 0#5 ∧ tx.byte.full = false ∧
    tx.byte.tone = tone ∧ tx.byte.timer = 0#16 ∧ tx.phase = 0#16

/-- No session enabled and no sticky bit set. -/
abbrev ControlCleared (c : Control) : Prop :=
  c.rxEn = false ∧ c.txEn = false ∧ c.feSeen = false ∧ c.peSeen = false ∧ c.ovrSeen = false ∧ c.lsSeen = false

/-- Every state element at its reset value (10_state.md R44). -/
abbrev AtReset (s : State) : Prop :=
  ControlCleared s.ctl ∧ (∀ r : CfgReg, readCfg s r = 0#16) ∧ RxInitial s.rx ∧ TxCleared false s.tx

/-! ### Runs of the internal operations -/

/-- The outputs of FILTER on a list of inputs (41_filter_bank.md R83). -/
def filterRun (b0 b1 a2 : Int) (fs : FilterState) : List FiltWord → List FiltWord
  | [] => []
  | x :: xs => (filterStep b0 b1 a2 fs x).2 :: filterRun b0 b1 a2 (filterStep b0 b1 a2 fs x).1 xs

/-- wrap_32(v), the signed value congruent to v modulo 2^32 (00_scope.md R8). -/
def wrap32 (v : Int) : Int :=
  (v + 2 ^ 31) % 2 ^ 32 - 2 ^ 31

/-- The outputs of the two-deep delay line of 41_filter_bank.md R88 on a list of inputs: x1 and x2 are the
inputs one and two steps back, y1 and y2 the outputs. Each product is floored by 2^14 as 00_scope.md R9
writes it, without the model's own mulq. -/
def delayLineRun (b0 b1 a2 x1 x2 y1 y2 : Int) : List Int → List Int
  | [] => []
  | x :: xs =>
    let y := wrap32 ((b0 * x) / 2 ^ 14 + (b1 * x1) / 2 ^ 14 + (b0 * x2) / 2 ^ 14 - (b1 * y1) / 2 ^ 14 -
      (a2 * y2) / 2 ^ 14)
    y :: delayLineRun b0 b1 a2 x x1 y y1 xs

/-- The estimator after a list of filter outputs (42_energy.md R90). -/
def energyRun (w : Nat) (es : EnergyState) : List FiltWord → EnergyState
  | [] => es
  | y :: ys => energyRun w (energyStep w es y) ys

/-- The sum of the squares of a list of filter outputs. -/
def squareTotal (ys : List FiltWord) : Nat :=
  (ys.map fun y => (y.toInt * y.toInt).toNat).sum

/-- The counter after a list of pairs of energies, mark-indicating first (43_discriminator.md R99). -/
def levelRun (h : BitVec 15) (cur : Level) : List (Energy × Energy) → Level
  | [] => cur
  | e :: es => levelRun h (discriminate h cur e.1 e.2) es

/-- The decoder after n steps on the levels at steps 1 to n (44_decoder.md R106). -/
def decoderAfter (cfg : ConfigRegs) (d : DecoderState) (level : Nat → Level) : Nat → DecoderState
  | 0 => d
  | n + 1 => (decodeLevel cfg (decoderAfter cfg d level n) (level (n + 1))).1

/-- What DECODE returns at step n ≥ 1 of such a run. -/
def decoderResult (cfg : ConfigRegs) (d : DecoderState) (level : Nat → Level) (n : Nat) : DecodeResult :=
  (decodeLevel cfg (decoderAfter cfg d level (n - 1)) (level n)).2

/-- The byte whose bit i is `bits i` for i < n and 0 above. -/
def byteOfBits (bits : Nat → Bool) (n : Nat) : Byte :=
  BitVec.ofNat 8 (((List.range n).map fun i => (bits i).toNat * 2 ^ i).sum)

/-! ### Runs of commands -/

/-- The state after one command; a command that stopped would leave the state as it was. -/
def afterCommand (i : Instr) (s : State) : State :=
  match exec i s with
  | .next t => t
  | .fault _ => s
  | .refused _ => s

/-- The state after a list of commands, run in order. -/
def afterCommands (is : List Instr) (s : State) : State :=
  is.foldl (fun t i => afterCommand i t) s

/-- The response to a command. -/
def responseTo (i : Instr) (s : State) : Option ResponseWord :=
  (afterCommand i s).responses.getLast?

/-- Each command of a list with its response, run in order. -/
def answers : List Instr → State → List (Instr × Option ResponseWord)
  | [], _ => []
  | i :: is, s => (i, responseTo i s) :: answers is (afterCommand i s)

/-- RX_SAMPLE, the receive pipeline's pump command (44_decoder.md R117). -/
def isReceive : Instr → Bool
  | .rxSample _ => true
  | .nop | .srst | .rdreg _ | .wrreg _ _ | .start _ _ | .stop _ _ | .txPush _ | .txSample => false

/-- TX_PUSH and TX_SAMPLE, the transmit pipeline's commands (46_transmit.md R135, R138). -/
def isTransmit : Instr → Bool
  | .txPush _ | .txSample => true
  | .nop | .srst | .rdreg _ | .wrreg _ _ | .start _ _ | .stop _ _ | .rxSample _ => false

end Sys2Proof.Machine
end

