-- ==== Sys2Proof/Certificates/Slice0/Obligations.lean ====
section
/-! DEFINITION. The statements about the block, from the numbered rules of spec/. The terms they use are
those of the model and of Sys2Proof/Safety.lean. -/

open Sys2Proof Sys2Proof.Machine

/-! ### Encoding (30_encoding.md) -/

/-- R65 to R70, R77: the decoder reads back every encoded command, no other word stands for it, and the
same holds on a byte-wide transport. -/
def Obligations.DecodeAndEncodeAgree : Prop :=
  (∀ i : Instr, decode (encode i) = .ok i) ∧
  (∀ (c : CommandWord) (i : Instr), decode c = .ok i → encode i = c) ∧
  (∀ i : Instr, decodeBytes (encodeBytes i) = .ok i)

/-- R74: a word is the command of a row exactly when (C and mask) = match, and at most one row matches. -/
def Obligations.DecodeFollowsOpcodeMap : Prop :=
  (∀ row ∈ opcodeTable, ∀ c : CommandWord,
    c &&& row.mask = row.pattern ↔ ∃ i, decode c = .ok i ∧ i.row = row) ∧
  (∀ c : CommandWord, ∀ r₁ ∈ opcodeTable, ∀ r₂ ∈ opcodeTable,
    c &&& r₁.mask = r₁.pattern → c &&& r₂.mask = r₂.pattern → r₁ = r₂)

/-- R158: a word with a reserved opcode or a 1 in a reserved field is answered 0x10000000 and changes
nothing. -/
def Obligations.IllegalWordChangesNothing : Prop :=
  ∀ (s : State) (c : CommandWord) (rest : List PortInput),
    s.inputs = .command c :: rest →
    (9 ≤ (c.extractLsb' 28 4).toNat ∨
      ∃ f, formatOf (c.extractLsb' 28 4) = some f ∧ c &&& f.reserved ≠ 0#32) →
    step s = .next (State.answered { s with inputs := rest } 0x10000000#32)

/-- The words of 95_test_vectors.md, one for each command, decode to the commands they stand for. -/
def Obligations.WrittenWordsDecode : Prop :=
  decode 0x00000000#32 = .ok .nop ∧
  decode 0x10000000#32 = .ok .srst ∧
  decode 0x20370000#32 = .ok (.rdreg 0x37#8) ∧
  decode 0x3011C000#32 = .ok (.wrreg 0x11#8 0xC000#16) ∧
  decode 0x40000002#32 = .ok (.start false true) ∧
  decode 0x50000003#32 = .ok (.stop true true) ∧
  decode 0x6000FC18#32 = .ok (.rxSample 0xFC18#16) ∧
  decode 0x7000004B#32 = .ok (.txPush 0x4B#8) ∧
  decode 0x80000000#32 = .ok .txSample

/-! ### The step (20_memory.md R57, 60_exceptions.md) -/

/-- R57: when the next input is a command word, the step takes it and is exec of the command it decodes
to. That the inputs stand in a list of the state is the model's choice (log entry 2). -/
def Obligations.StepRunsDecodedCommand : Prop :=
  ∀ (s : State) (c : CommandWord) (rest : List PortInput) (i : Instr),
    s.inputs = .command c :: rest → decode c = .ok i → step s = exec i { s with inputs := rest }

/-- R168, R172: with no input the block holds its state; the reset input resets it with no response. That
the reset input lands between commands and keeps the port's two lists is the model's choice (log entries 2
to 4). -/
def Obligations.StepWaitsOrTakesReset : Prop :=
  (∀ s : State, s.inputs = [] → step s = .next s) ∧
  (∀ (s : State) (rest : List PortInput), s.inputs = .resetInput :: rest →
    ∃ t, step s = .next t ∧ t.inputs = rest ∧ t.responses = s.responses ∧ SameBlock State.reset t)

/-- R153: every command completes with exactly one response and one status code; a status other than OK
means nothing changed, but that OVERRUN sets OVR_SEEN. -/
def Obligations.EveryCommandAnswersOnce : Prop :=
  ∀ (s : State) (c : CommandWord) (rest : List PortInput), s.inputs = .command c :: rest →
    ∃ t p, step s = .next t ∧ t.inputs = rest ∧ t.responses = s.responses ++ [p] ∧
      statusField p ≤ 7 ∧
      (statusField p ≠ 0 →
        t.cfg = s.cfg ∧ t.tab = s.tab ∧ t.rx = s.rx ∧ t.tx = s.tx ∧ flagsField p = 0#12 ∧
        (statusField p ≠ 5 → dataField p = 0#16) ∧
        t.ctl = { s.ctl with ovrSeen := s.ctl.ovrSeen || decide (statusField p = 7) })

/-- R173: what a command does and answers depends on the block's state and the command alone, not on the
commands still to come or the responses given so far. -/
def Obligations.StepDependsOnBlockAlone : Prop :=
  ∀ (s t : State) (c : CommandWord) (rs rt : List PortInput), SameBlock s t →
    s.inputs = .command c :: rs → t.inputs = .command c :: rt →
    ∃ s' t' p, step s = .next s' ∧ step t = .next t' ∧ SameBlock s' t' ∧
      s'.responses = s.responses ++ [p] ∧ t'.responses = t.responses ++ [p]

/-- R57, R183: a sequence of command words runs to its end, one step and one response for each. -/
def Obligations.CommandSequenceRunsToItsEnd : Prop :=
  ∀ (cs : List CommandWord) (s : State), s.inputs = cs.map .command →
    ∃ t : State, Host.Core.run core cs.length s = .next t ∧ t.inputs = [] ∧
      t.responses.length = s.responses.length + cs.length

/-- R171: while its pipeline is enabled, a pump command is never refused, but that TX_PUSH may answer
OVERRUN; while it is not, the answer is DISABLED. -/
def Obligations.EnabledPumpNeverRefused : Prop :=
  ∀ (s : State) (sample : Sample) (byte : Byte),
    (∃ t p, exec (.rxSample sample) s = .next t ∧ t.responses = s.responses ++ [p] ∧
      statusField p = if s.ctl.rxEn then 0 else 6) ∧
    (∃ t p, exec .txSample s = .next t ∧ t.responses = s.responses ++ [p] ∧
      statusField p = if s.ctl.txEn then 0 else 6) ∧
    (∃ t p, exec (.txPush byte) s = .next t ∧ t.responses = s.responses ++ [p] ∧
      statusField p = if s.ctl.txEn then (if s.tx.byte.full then 7 else 0) else 6)

/-! ### Reset (70_reset_and_hazards.md R172) -/

/-- R145: SRST completes in every state, with every state element at its reset value and the response OK.
That it keeps the port's two lists is the model's choice (log entry 4). -/
def Obligations.SrstResetsEveryElement : Prop :=
  ∀ s : State, ∃ t, exec .srst s = .next t ∧ AtReset t ∧ t.inputs = s.inputs ∧
    t.responses = s.responses ++ [0x00000000#32]

/-- R172: the state at power-on has every element at its reset value; there, no session is enabled, every
pump command is answered DISABLED, and START of any session CONFIG. -/
def Obligations.ResetLeavesNothingEnabled : Prop :=
  AtReset State.reset ∧
  ∀ s : State, AtReset s →
    (∀ sample, exec (.rxSample sample) s = .next (s.answered 0x60000000#32)) ∧
    (∀ byte, exec (.txPush byte) s = .next (s.answered 0x60000000#32)) ∧
    exec .txSample s = .next (s.answered 0x60000000#32) ∧
    exec (.start true false) s = .next (s.answered 0x5000003B#32) ∧
    exec (.start false true) s = .next (s.answered 0x50000023#32) ∧
    exec (.start true true) s = .next (s.answered 0x5000003B#32)

/-! ### Registers (10_state.md, 20_memory.md, 47_control.md) -/

/-- R144: NOP completes in every state and answers OK. -/
def Obligations.NopCompletes : Prop :=
  ∀ s : State, exec .nop s = .next (s.answered 0x00000000#32)

/-- R17, R33: which register each number names, and that every other number is unmapped. -/
def Obligations.RegisterMapByNumber : Prop :=
  regOf 0x00#8 = some (.ro .id) ∧ regOf 0x01#8 = some (.ro .version) ∧ regOf 0x02#8 = some .status ∧
  regOf 0x04#8 = some (.cfg .sercfg) ∧ regOf 0x05#8 = some (.cfg .chancfg) ∧
  regOf 0x06#8 = some (.cfg .window) ∧ regOf 0x07#8 = some (.cfg .hyst) ∧
  regOf 0x08#8 = some (.cfg .offset) ∧ regOf 0x09#8 = some (.cfg .spb) ∧
  regOf 0x0A#8 = some (.cfg .levelT) ∧
  (∀ j : Fin 4, regOf (BitVec.ofNat 8 (0x0C + j.val)) = some (.cfg (.thresh j))) ∧
  (∀ i : Fin 12, regOf (BitVec.ofNat 8 (0x10 + i.val)) = some (.cfg (.coef i))) ∧
  (∀ f : Fin 4, regOf (BitVec.ofNat 8 (0x1C + f.val)) = some (.cfg (.step f))) ∧
  (∀ i : Fin 64, regOf (BitVec.ofNat 8 (0x40 + i.val)) = some (.cfg (.lut i))) ∧
  (∀ n : RegNum, 0x20 ≤ n.toNat → n.toNat ≤ 0x3C → ∃ r, regOf n = some (.ro r)) ∧
  (∀ n : RegNum, regOf n = none ↔
    n.toNat = 0x03 ∨ n.toNat = 0x0B ∨ (0x3D ≤ n.toNat ∧ n.toNat ≤ 0x3F) ∨ 0x80 ≤ n.toNat)

/-- R47: RDREG of a mapped number completes in every state, during a session too, with the register's
value and no other change. -/
def Obligations.RdregCompletes : Prop :=
  ∀ (s : State) (n : RegNum) (r : RegName), regOf n = some r →
    exec (.rdreg n) s = .next (s.answered (0x0000#16 ++ readReg s r))

/-- R48: no read changes any state, and a second read with no command between gives the same response. -/
def Obligations.ReadsHaveNoSideEffect : Prop :=
  ∀ (s : State) (n : RegNum), ∃ p,
    exec (.rdreg n) s = .next (s.answered p) ∧
    exec (.rdreg n) (s.answered p) = .next ((s.answered p).answered p)

/-- R159: unmapped numbers, writes to RO registers and writes to CFG registers during a session are refused,
in this order of priority, and change nothing. -/
def Obligations.RegisterAccessFailures : Prop :=
  ∀ (s : State) (n : RegNum) (v : RegVal),
    ((n.toNat = 0x03 ∨ n.toNat = 0x0B ∨ (0x3D ≤ n.toNat ∧ n.toNat ≤ 0x3F) ∨ 0x80 ≤ n.toNat) →
      exec (.rdreg n) s = .next (s.answered 0x20000000#32) ∧
      exec (.wrreg n v) s = .next (s.answered 0x20000000#32)) ∧
    ((n.toNat ≤ 0x01 ∨ (0x20 ≤ n.toNat ∧ n.toNat ≤ 0x3C)) →
      exec (.wrreg n v) s = .next (s.answered 0x30000000#32)) ∧
    (((0x04 ≤ n.toNat ∧ n.toNat ≤ 0x0A) ∨ (0x0C ≤ n.toNat ∧ n.toNat ≤ 0x1F) ∨
        (0x40 ≤ n.toNat ∧ n.toNat ≤ 0x7F)) →
      (s.ctl.rxEn = true ∨ s.ctl.txEn = true) →
      exec (.wrreg n v) s = .next (s.answered 0x40000000#32))

/-- R47, R50, R51: RDREG of a CFG number gives that register's value in every state. With no session enabled
a write of a CFG register completes: RDREG of its number then gives the value in its defined bits and 0 in its
reserved bits, every other CFG register reads as before, and nothing else changes. -/
def Obligations.ConfigWriteReadsBackMasked : Prop :=
  ∀ (n : RegNum) (r : CfgReg), regOf n = some (.cfg r) →
    (∀ s : State, exec (.rdreg n) s = .next (s.answered (0x0000#16 ++ readCfg s r))) ∧
    ∀ (s : State) (v : RegVal), s.ctl.rxEn = false → s.ctl.txEn = false →
      ∃ t, exec (.wrreg n v) s = .next t ∧ t.inputs = s.inputs ∧
        t.responses = s.responses ++ [0x00000000#32] ∧ t.ctl = s.ctl ∧ t.rx = s.rx ∧ t.tx = s.tx ∧
        exec (.rdreg n) t = .next (t.answered (0x0000#16 ++ (v &&& fieldMask r))) ∧
        readCfg t r = v &&& fieldMask r ∧ ∀ r' : CfgReg, r' ≠ r → readCfg t r' = readCfg s r'

/-- R21 to R31: where a written value's bits go in every CFG register and table entry, read as the quantities
the pipelines use, and that an unlocked WRREG is this write (R50). Coefficient k of slot f is COEF entry
3·f + k. -/
def Obligations.WrittenFieldsAreUsed : Prop :=
  ∀ (s : State) (v : RegVal),
    (writeCfg .sercfg v s).cfg.ser.numData = v.toNat % 16 ∧
    (writeCfg .sercfg v s).cfg.ser.numParity = v.toNat / 16 % 2 ∧
    ((parityCode (writeCfg .sercfg v s).cfg.ser.parityKind).toNat = v.toNat / 32 % 4) ∧
    ((writeCfg .sercfg v s).cfg.ser.parityKind = .space ↔ v.toNat / 32 % 4 = 0) ∧
    ((writeCfg .sercfg v s).cfg.ser.parityKind = .mark ↔ v.toNat / 32 % 4 = 1) ∧
    ((writeCfg .sercfg v s).cfg.ser.parityKind = .even ↔ v.toNat / 32 % 4 = 2) ∧
    ((writeCfg .sercfg v s).cfg.ser.parityKind = .odd ↔ v.toNat / 32 % 4 = 3) ∧
    (writeCfg .sercfg v s).cfg.ser.numStop = v.toNat / 256 % 16 ∧
    (writeCfg .chancfg v s).cfg.rxCh.toNat = v.toNat % 2 ∧
    (writeCfg .chancfg v s).cfg.txCh.toNat = v.toNat / 2 % 2 ∧
    (writeCfg .window v s).cfg.window.toNat = v.toNat % 128 ∧
    (writeCfg .hyst v s).cfg.hyst.toNat = v.toNat % 32768 ∧
    (writeCfg .offset v s).cfg.offset = v ∧
    (writeCfg .spb v s).cfg.spb = v ∧
    (writeCfg .levelT v s).cfg.levelT = v ∧
    (∀ j : Fin 4, (writeCfg (.thresh j) v s).cfg.thresh[j.val] = v) ∧
    (∀ i : Fin 12, (writeCfg (.coef i) v s).tab.coef[i.val] = v) ∧
    (∀ (f : Fin 4) (k : Fin 3) (i : Fin 12), i.val = 3 * f.val + k.val →
      coefOf (writeCfg (.coef i) v s).tab f k = v.toInt) ∧
    (∀ f : Fin 4, (writeCfg (.step f) v s).tab.step[f.val] = v ∧
      stepOf (writeCfg (.step f) v s).tab f = v) ∧
    (∀ i : Fin 64, ((writeCfg (.lut i) v s).tab.lut[i.val]).toNat = v.toNat % 32768) ∧
    (∀ (n : RegNum) (r : CfgReg), regOf n = some (.cfg r) → s.ctl.rxEn = false → s.ctl.txEn = false →
      exec (.wrreg n v) s = .next ((writeCfg r v s).answered 0x00000000#32)) ∧
    (threshOf s.cfg).toNat = s.cfg.thresh[0].toNat + 2 ^ 16 * s.cfg.thresh[1].toNat +
      2 ^ 32 * s.cfg.thresh[2].toNat + 2 ^ 48 * s.cfg.thresh[3].toNat

/-- R20: STATUS reads its bits from the state, 0 after reset, and a write clears the sticky bits written as
1 and changes nothing else, during a session too. -/
def Obligations.StatusReadsAndClears : Prop :=
  (∀ s : State, ∃ v : RegVal, exec (.rdreg 0x02#8) s = .next (s.answered (0x0000#16 ++ v)) ∧
    v.getLsbD 0 = s.ctl.rxEn ∧ v.getLsbD 1 = s.ctl.txEn ∧ v.getLsbD 2 = s.rx.es.space.primed ∧
    v.getLsbD 3 = decide (0 < s.tx.byte.rem.toNat) ∧ v.getLsbD 4 = s.tx.byte.full ∧
    v.getLsbD 5 = decide (1 ≤ s.rx.dec.off.toInt) ∧ v.getLsbD 6 = false ∧ v.getLsbD 7 = false ∧
    v.getLsbD 8 = s.ctl.feSeen ∧ v.getLsbD 9 = s.ctl.peSeen ∧ v.getLsbD 10 = s.ctl.ovrSeen ∧
    v.getLsbD 11 = s.ctl.lsSeen ∧ ∀ i, 12 ≤ i → v.getLsbD i = false) ∧
  exec (.rdreg 0x02#8) State.reset = .next (State.reset.answered 0x00000000#32) ∧
  (∀ (s : State) (v : RegVal), ∃ t, exec (.wrreg 0x02#8 v) s = .next t ∧
    t.inputs = s.inputs ∧ t.responses = s.responses ++ [0x00000000#32] ∧
    t.cfg = s.cfg ∧ t.tab = s.tab ∧ t.rx = s.rx ∧ t.tx = s.tx ∧
    t.ctl.rxEn = s.ctl.rxEn ∧ t.ctl.txEn = s.ctl.txEn ∧
    t.ctl.feSeen = (if v.getLsbD 8 then false else s.ctl.feSeen) ∧
    t.ctl.peSeen = (if v.getLsbD 9 then false else s.ctl.peSeen) ∧
    t.ctl.ovrSeen = (if v.getLsbD 10 then false else s.ctl.ovrSeen) ∧
    t.ctl.lsSeen = (if v.getLsbD 11 then false else s.ctl.lsSeen))

/-- R18, R19, R32: the response of RDREG for every RO register, by number. -/
def Obligations.ReadOnlyRegistersShowState : Prop :=
  ∀ s : State,
    let reads := fun (n : Nat) (v : RegVal) =>
      exec (.rdreg (BitVec.ofNat 8 n)) s = .next (s.answered (0x0000#16 ++ v))
    reads 0x00 0xB103#16 ∧ reads 0x01 0x0001#16 ∧
    reads 0x20 s.rx.dec.off ∧ reads 0x21 (0#11 ++ s.rx.dec.bit) ∧ reads 0x22 (0#8 ++ s.rx.dec.byte) ∧
    reads 0x23 (0#15 ++ BitVec.ofBool s.rx.dec.par) ∧ reads 0x24 s.rx.dec.last ∧ reads 0x25 s.rx.cur ∧
    reads 0x26 (BitVec.ofNat 16 s.rx.es.space.ptr.val) ∧ reads 0x27 (BitVec.ofNat 16 s.rx.es.mark.ptr.val) ∧
    (∀ j, j < 4 → reads (0x28 + j) (s.rx.es.space.sum.extractLsb' (16 * j) 16)) ∧
    (∀ j, j < 4 → reads (0x2C + j) (s.rx.es.mark.sum.extractLsb' (16 * j) 16)) ∧
    reads 0x30 (s.tx.byte.cur.extractLsb' 0 16) ∧ reads 0x31 (0#15 ++ s.tx.byte.cur.extractLsb' 16 1) ∧
    reads 0x32 (s.tx.byte.nxt.extractLsb' 0 16) ∧ reads 0x33 (0#15 ++ s.tx.byte.nxt.extractLsb' 16 1) ∧
    reads 0x34 (0#11 ++ s.tx.byte.rem) ∧ reads 0x35 s.tx.byte.timer ∧
    reads 0x36 (0#15 ++ BitVec.ofBool s.tx.byte.tone) ∧ reads 0x37 s.tx.phase ∧
    (∀ j, j < 2 → reads (0x38 + j)
      ((s.rx.fs.space.yout[(s.rx.fs.space.p.val + 2) % 3]'(by omega)).extractLsb' (16 * j) 16)) ∧
    (∀ j, j < 2 → reads (0x3A + j)
      ((s.rx.fs.mark.yout[(s.rx.fs.mark.p.val + 2) % 3]'(by omega)).extractLsb' (16 * j) 16)) ∧
    reads 0x3C (0#12 ++ BitVec.ofNat 2 s.rx.fs.mark.p.val ++ BitVec.ofNat 2 s.rx.fs.space.p.val)

/-! ### Sessions (47_control.md R148 to R151) -/

/-- R149: each bit of CHECK's mask. -/
def Obligations.CheckMaskBits : Prop :=
  ∀ (rx tx : Bool) (c : ConfigRegs),
    ((checkMask rx tx c).getLsbD 0 = true ↔
      (rx = true ∨ tx = true) ∧ (c.ser.dataBits.toNat < 1 ∨ c.ser.dataBits.toNat > 8)) ∧
    ((checkMask rx tx c).getLsbD 1 = true ↔ (rx = true ∨ tx = true) ∧ c.ser.stopBits.toNat = 0) ∧
    ((checkMask rx tx c).getLsbD 2 = true ↔ (rx = true ∨ tx = true) ∧
      c.ser.dataBits.toNat + c.ser.parityBits.toNat + c.ser.stopBits.toNat > 16) ∧
    ((checkMask rx tx c).getLsbD 3 = true ↔ rx = true ∧ (c.window.toNat < 1 ∨ c.window.toNat > 64)) ∧
    ((checkMask rx tx c).getLsbD 4 = true ↔ rx = true ∧ (c.offset.toNat < 1 ∨ c.offset.toNat > 32767)) ∧
    ((checkMask rx tx c).getLsbD 5 = true ↔
      (rx = true ∨ tx = true) ∧ (c.spb.toNat < 1 ∨ c.spb.toNat > 32767)) ∧
    ∀ i, 6 ≤ i → (checkMask rx tx c).getLsbD i = false

/-- R148: START opens the selected sessions when the configuration is legal for each of them, and otherwise
answers CONFIG with the nonzero mask of the failed checks and changes nothing. -/
def Obligations.StartOpensAllOrNothing : Prop :=
  ∀ (rx tx : Bool) (s : State),
    (((rx = true → RxConfigLegal s.cfg) ∧ (tx = true → TxConfigLegal s.cfg)) →
      ∃ t, exec (.start rx tx) s = .next t ∧ t.inputs = s.inputs ∧
        t.responses = s.responses ++ [0x00000000#32] ∧ t.cfg = s.cfg ∧ t.tab = s.tab ∧
        t.ctl = { s.ctl with rxEn := s.ctl.rxEn || rx, txEn := s.ctl.txEn || tx } ∧
        (if rx then RxInitial t.rx else t.rx = s.rx) ∧ (if tx then TxCleared true t.tx else t.tx = s.tx)) ∧
    (¬((rx = true → RxConfigLegal s.cfg) ∧ (tx = true → TxConfigLegal s.cfg)) →
      checkMask rx tx s.cfg ≠ 0#16 ∧
      exec (.start rx tx) s = .next (s.answered (0x5000#16 ++ checkMask rx tx s.cfg)))

/-- R151: STOP completes in every state, clears the selected enables and retains everything else. -/
def Obligations.StopClearsEnables : Prop :=
  ∀ (rx tx : Bool) (s : State), ∃ t, exec (.stop rx tx) s = .next t ∧
    t.inputs = s.inputs ∧ t.responses = s.responses ++ [0x00000000#32] ∧
    t.cfg = s.cfg ∧ t.tab = s.tab ∧ t.rx = s.rx ∧ t.tx = s.tx ∧
    t.ctl = { s.ctl with
      rxEn := if rx then false else s.ctl.rxEn
      txEn := if tx then false else s.ctl.txEn }

/-! ### The filter bank (41_filter_bank.md) -/

/-- R88: from the cleared state the circular buffers behave as a two-deep delay line, for every list of
inputs and all coefficients. -/
def Obligations.FilterIsDelayLine : Prop :=
  ∀ (b0 b1 a2 : Int) (xs : List FiltWord),
    (filterRun b0 b1 a2 FilterState.reset xs).map BitVec.toInt =
      delayLineRun b0 b1 a2 0 0 0 0 (xs.map BitVec.toInt)

/-- R81, R82, R85, R90, R117: a receive sample runs the two slots of the receive channel, and only those, on
the sign extended sample; then ENERGY(0) takes the output of the space filter and ENERGY(1) that of the mark
filter, each with W = WINDOW_SIZE. -/
def Obligations.SampleRunsChannelSlots : Prop :=
  ∀ (cfg : ConfigRegs) (tab : Tables) (rx : RxSession) (sample : Sample),
    let c := if cfg.rxCh then 6 else 0
    let co := fun (i : Nat) => ((tab.coef.toList.getD i 0#16).toInt)
    let space := filterStep (co c) (co (c + 1)) (co (c + 2)) rx.fs.space (inputOf sample)
    let mark := filterStep (co (c + 3)) (co (c + 4)) (co (c + 5)) rx.fs.mark (inputOf sample)
    (inputOf sample).toInt = sample.toInt ∧
    (filterAndEnergy cfg tab rx (inputOf sample)).fs = { space := space.1, mark := mark.1 } ∧
    (filterAndEnergy cfg tab rx (inputOf sample)).es =
      { space := energyStep cfg.window.toNat rx.es.space space.2
        mark := energyStep cfg.window.toNat rx.es.mark mark.2 } ∧
    (filterAndEnergy cfg tab rx (inputOf sample)).cur = rx.cur ∧
    (filterAndEnergy cfg tab rx (inputOf sample)).dec = rx.dec

/-! ### The energy estimator (42_energy.md) -/

/-- R93, R97: after any list of filter outputs from the cleared state, the estimator is primed exactly when
the window has been filled once, and the sum is that of the squares of the last W outputs, or of all of them
before that, modulo 2^64. -/
def Obligations.EnergyIsWindowSum : Prop :=
  ∀ (w : Nat) (ys : List FiltWord), 1 ≤ w → w ≤ 64 →
    (energyRun w EnergyState.reset ys).primed = decide (w ≤ ys.length) ∧
    (energyRun w EnergyState.reset ys).sum.toNat =
      squareTotal (ys.drop (ys.length - w)) % 2 ^ 64

/-! ### The discriminator (43_discriminator.md) -/

/-- R99, R100: the counter moves by +1, -1 or 0 and saturates at ±h, and is in [-h, h] after every step. -/
def Obligations.DiscriminatorCountsAndSaturates : Prop :=
  ∀ (h : BitVec 15) (cur : Level) (a b : Energy),
    LevelOk h (discriminate h cur a b) ∧
    (discriminate h cur a b).toInt =
      min (max (cur.toInt + (if a.toNat > b.toNat then 1 else if a.toNat < b.toNat then -1 else 0))
        (-(h.toNat : Int))) h.toNat

/-- R103: from +h, k ≤ 2h samples that favour the other tone take the counter to h - k, and from -h to
k - h; with LEVEL_T = 0 the bit read changes from 1 to 0 after h + 1 samples and from 0 to 1 after h. -/
def Obligations.DebounceCounts : Prop :=
  ∀ (h : BitVec 15) (cur : Level) (es : List (Energy × Energy)), es.length ≤ 2 * h.toNat →
    (cur.toInt = h.toNat → (∀ e ∈ es, e.1.toNat < e.2.toNat) →
      (levelRun h cur es).toInt = (h.toNat : Int) - es.length ∧
      (bitOfLevel 0#16 (levelRun h cur es) = true ↔ es.length ≤ h.toNat)) ∧
    (cur.toInt = -(h.toNat : Int) → (∀ e ∈ es, e.2.toNat < e.1.toNat) →
      (levelRun h cur es).toInt = (es.length : Int) - h.toNat ∧
      (bitOfLevel 0#16 (levelRun h cur es) = true ↔ h.toNat ≤ es.length))

/-- R102: with H = 0 the level is 0 on every sample, and the decoder, once idle with last = 0, stays so and
emits nothing. -/
def Obligations.ZeroHysteresisEmitsNothing : Prop :=
  ∀ (s t : State) (sample : Sample), s.cfg.hyst = 0#15 → s.ctl.rxEn = true →
    s.rx.cur = 0#16 → s.rx.dec = { off := 0xFFFF#16, last := 0#16, bit := 0#5, byte := 0#8, par := false } →
    exec (.rxSample sample) s = .next t →
    t.rx.cur = 0#16 ∧ t.rx.dec = s.rx.dec ∧ t.ctl.feSeen = s.ctl.feSeen ∧ t.ctl.peSeen = s.ctl.peSeen ∧
      ∃ p, t.responses = s.responses ++ [p] ∧ statusField p = 0 ∧ dataField p = 0#16 ∧
        p.getLsbD 16 = false ∧ p.getLsbD 17 = false

/-! ### The decoder (44_decoder.md) -/

/-- R107: if after the countdown part bit = 0 and the level falls below LEVEL_T, the countdown is armed with
OFFSET, whether or not it was armed before, and nothing else changes but last; otherwise last alone changes
after the countdown part. So an idle decoder that sees no falling edge only takes the level into last and
reports nothing, be both below LEVEL_T or the new level not below it. -/
def Obligations.FallingEdgeArms : Prop :=
  ∀ (cfg : ConfigRegs) (d : DecoderState) (level : Level),
    ((countDown cfg d level).1.bit = 0#5 → level.toInt < cfg.levelT.toInt →
      cfg.levelT.toInt ≤ d.last.toInt →
      (decodeLevel cfg d level).1 = { (countDown cfg d level).1 with off := cfg.offset, last := level }) ∧
    ((countDown cfg d level).1.bit ≠ 0#5 ∨ cfg.levelT.toInt ≤ level.toInt ∨
        d.last.toInt < cfg.levelT.toInt →
      (decodeLevel cfg d level).1 = { (countDown cfg d level).1 with last := level }) ∧
    (d.off = 0xFFFF#16 → d.bit = 0#5 →
      cfg.levelT.toInt ≤ level.toInt ∨ d.last.toInt < cfg.levelT.toInt →
      decodeLevel cfg d level =
        ({ off := 0xFFFF#16, last := level, bit := 0#5, byte := d.byte, par := d.par },
          { bv := false, out := 0#8, fe := false, pe := false, rp := false }))

/-- R121: a frame in progress is not abandoned by a falling edge: between sampling instants a step only
counts down. -/
def Obligations.FrameInProgressOnlyCountsDown : Prop :=
  ∀ (cfg : ConfigRegs) (d : DecoderState) (level : Level),
    1 ≤ d.bit.toNat → 2 ≤ d.off.toInt →
    (decodeLevel cfg d level).1 = { d with off := d.off - 1#16, last := level } ∧
      ((decodeLevel cfg d level).1.off.toInt = d.off.toInt - 1) ∧
      (decodeLevel cfg d level).2 = quietResult

/-- R109, R112, R115: at a sampling instant a start bit of 1 or a stop bit of 0 discards the byte and returns
the decoder to idle, and reports a framing error and no byte; the same step's falling edge may arm it
again. -/
def Obligations.FramingErrorReturnsToIdle : Prop :=
  ∀ (cfg : ConfigRegs) (d : DecoderState) (level : Level), d.off = 1#16 →
    ((d.bit.toNat = 0 ∧ cfg.levelT.toInt ≤ level.toInt) ∨
      (cfg.ser.stopStart ≤ d.bit.toNat ∧ level.toInt < cfg.levelT.toInt)) →
    (decodeLevel cfg d level).2 = { bv := false, out := 0#8, fe := true, pe := false, rp := false } ∧
    (decodeLevel cfg d level).1 =
      { off := if level.toInt < cfg.levelT.toInt ∧ cfg.levelT.toInt ≤ d.last.toInt then cfg.offset else 0xFFFF#16
        last := level, bit := 0#5, byte := 0#8, par := false }

/-- R116: after an arming step 0 at which the level was `level 0`, with no further falling edge before the
start bit is sampled: position k is sampled at step OFFSET + k·SPB unless an earlier position aborted, and a
complete frame is emitted at step OFFSET + (N_FRAME - 1)·SPB, with nothing reported before it. -/
def Obligations.FrameSampledAtInstants : Prop :=
  ∀ (cfg : ConfigRegs) (d : DecoderState) (level : Nat → Level), RxConfigLegal cfg →
    d.off = cfg.offset → d.bit = 0#5 → d.byte = 0#8 → d.par = false → d.last = level 0 →
    (∀ n, 1 ≤ n → n < cfg.offset.toNat →
      ¬((level n).toInt < cfg.levelT.toInt ∧ cfg.levelT.toInt ≤ (level (n - 1)).toInt)) →
    let instant := fun k => cfg.offset.toNat + k * cfg.spb.toNat
    let bit := fun k => decide (cfg.levelT.toInt ≤ (level (instant k)).toInt)
    let accepted := fun k =>
      (k = 0 → bit k = false) ∧ (cfg.ser.stopStart ≤ k → bit k = true)
    (∀ k, k < cfg.ser.numFrame → (∀ i, i < k → accepted i) →
      (decoderAfter cfg d level (instant k - 1)).bit.toNat = k ∧
      (decoderAfter cfg d level (instant k - 1)).off = 1#16) ∧
    ((∀ k, k < cfg.ser.numFrame → accepted k) →
      (∀ n, 1 ≤ n → n < instant (cfg.ser.numFrame - 1) → decoderResult cfg d level n = quietResult) ∧
      (let out := byteOfBits (fun i => bit (i + 1)) cfg.ser.numData
       let par := bit (cfg.ser.numData + 1)
       decoderResult cfg d level (instant (cfg.ser.numFrame - 1)) =
        { bv := true, out := out, fe := false
          pe := cfg.ser.parityBits && (par != parityOf cfg.ser.parityKind out)
          rp := cfg.ser.parityBits && par }) ∧
      decoderAfter cfg d level (instant (cfg.ser.numFrame - 1)) =
        { off := 0xFFFF#16, last := level (instant (cfg.ser.numFrame - 1)), bit := 0#5, byte := 0#8
          par := false })

/-- R122: after a complete frame armed at step 0, when the level stays at or above LEVEL_T from the last
stop bit's instant until the second falling edge at step N_FRAME·SPB, and OFFSET < SPB, the decoder is idle
before that edge, reports nothing more, and is armed by it. -/
def Obligations.BackToBackFrameCaught : Prop :=
  ∀ (cfg : ConfigRegs) (d : DecoderState) (level : Nat → Level), RxConfigLegal cfg →
    cfg.offset.toNat < cfg.spb.toNat →
    d.off = cfg.offset → d.bit = 0#5 → d.byte = 0#8 → d.par = false → d.last = level 0 →
    (∀ n, 1 ≤ n → n < cfg.offset.toNat →
      ¬((level n).toInt < cfg.levelT.toInt ∧ cfg.levelT.toInt ≤ (level (n - 1)).toInt)) →
    let instant := fun k => cfg.offset.toNat + k * cfg.spb.toNat
    let second := cfg.ser.numFrame * cfg.spb.toNat
    (level (instant 0)).toInt < cfg.levelT.toInt →
    (∀ k, cfg.ser.stopStart ≤ k → k < cfg.ser.numFrame → cfg.levelT.toInt ≤ (level (instant k)).toInt) →
    (∀ n, instant (cfg.ser.numFrame - 1) ≤ n → n < second → cfg.levelT.toInt ≤ (level n).toInt) →
    (level second).toInt < cfg.levelT.toInt →
    (decoderResult cfg d level (instant (cfg.ser.numFrame - 1))).bv = true ∧
    (∀ n, instant (cfg.ser.numFrame - 1) ≤ n → n < second →
      decoderAfter cfg d level n =
        { off := 0xFFFF#16, last := level n, bit := 0#5, byte := 0#8, par := false }) ∧
    (∀ n, instant (cfg.ser.numFrame - 1) < n → n ≤ second → decoderResult cfg d level n = quietResult) ∧
    decoderAfter cfg d level second =
      { off := cfg.offset, last := level second, bit := 0#5, byte := 0#8, par := false }

/-! ### RX_SAMPLE (44_decoder.md R117 to R120) -/

/-- R117: with the receive session enabled RX_SAMPLE completes: the filters and the energies advance; a
sample before the windows are primed or below the energy threshold stops there, and any other advances the
discriminator, on the mark-indicating and the space-indicating sum, and the decoder. -/
def Obligations.RxSampleRunsPipeline : Prop :=
  ∀ (s : State) (sample : Sample), s.ctl.rxEn = true →
    let rx := filterAndEnergy s.cfg s.tab s.rx (inputOf sample)
    let thresh := s.cfg.thresh[0].toNat + 2 ^ 16 * s.cfg.thresh[1].toNat +
      2 ^ 32 * s.cfg.thresh[2].toNat + 2 ^ 48 * s.cfg.thresh[3].toNat
    let energy := rx.es.space.sum.toNat + rx.es.mark.sum.toNat
    let level := discriminate s.cfg.hyst rx.cur rx.es.mark.sum rx.es.space.sum
    let d := decodeLevel s.cfg rx.dec level
    (rx.es.space.primed = false →
      exec (.rxSample sample) s = .next (State.answered { s with rx := rx } 0x00080000#32)) ∧
    (rx.es.space.primed = true → energy < thresh →
      exec (.rxSample sample) s =
        .next (State.answered { s with rx := rx, ctl := { s.ctl with lsSeen := true } } 0x00040000#32)) ∧
    (rx.es.space.primed = true → thresh ≤ energy →
      exec (.rxSample sample) s =
        .next (State.answered
          { s with
            rx := { rx with cur := level, dec := d.1 }
            ctl := { s.ctl with feSeen := s.ctl.feSeen || d.2.fe, peSeen := s.ctl.peSeen || d.2.pe } }
          (0#10 ++ BitVec.ofBool d.2.rp ++ BitVec.ofBool d.2.pe ++ 0#2 ++ BitVec.ofBool d.2.fe ++
            BitVec.ofBool d.2.bv ++ 0#8 ++ d.2.out)))

/-- R120: what an OK response to RX_SAMPLE can hold, the emitted byte being the one DECODE returns. Bits 16
to 21 are BV, FE, LS, NP, PE, RP. -/
def Obligations.RxResponseContents : Prop :=
  ∀ (s t : State) (sample : Sample), s.ctl.rxEn = true → exec (.rxSample sample) s = .next t →
    let rx := filterAndEnergy s.cfg s.tab s.rx (inputOf sample)
    let level := discriminate s.cfg.hyst rx.cur rx.es.mark.sum rx.es.space.sum
    ∃ p, t.responses = s.responses ++ [p] ∧ statusField p = 0 ∧
      ¬(p.getLsbD 18 = true ∧ p.getLsbD 19 = true) ∧
      ((p.getLsbD 18 = true ∨ p.getLsbD 19 = true) →
        p.getLsbD 16 = false ∧ p.getLsbD 17 = false ∧ p.getLsbD 20 = false ∧ p.getLsbD 21 = false) ∧
      ¬(p.getLsbD 16 = true ∧ p.getLsbD 17 = true) ∧
      ((p.getLsbD 20 = true ∨ p.getLsbD 21 = true) → p.getLsbD 16 = true ∧ s.cfg.ser.parityBits = true) ∧
      (p.getLsbD 16 = true → dataField p = 0#8 ++ (decodeLevel s.cfg rx.dec level).2.out) ∧
      (p.getLsbD 16 = false → dataField p = 0#16)

/-- R156: without its session a pump command is answered DISABLED and nothing changes. -/
def Obligations.PumpWithoutSessionDisabled : Prop :=
  ∀ (s : State) (sample : Sample) (byte : Byte),
    (s.ctl.rxEn = false → exec (.rxSample sample) s = .next (s.answered 0x60000000#32)) ∧
    (s.ctl.txEn = false → exec (.txPush byte) s = .next (s.answered 0x60000000#32)) ∧
    (s.ctl.txEn = false → exec .txSample s = .next (s.answered 0x60000000#32))

/-! ### The synthesizer (45_synthesizer.md) -/

/-- R125, R126: the four quarters of the wave, and the range of a sample. -/
def Obligations.SynthFoldsFourQuarters : Prop :=
  ∀ (lut : Vector LutEntry 64) (phase : Phase) (j : Nat) (hj : j < 64),
    ((phase.toNat / 256 = j → synthSample lut phase = (lut[j]).toNat) ∧
      (phase.toNat / 256 = 64 + j → synthSample lut phase = (lut[63 - j]).toNat) ∧
      (phase.toNat / 256 = 128 + j → synthSample lut phase = -((lut[j]).toNat : Int)) ∧
      (phase.toNat / 256 = 192 + j → synthSample lut phase = -((lut[63 - j]).toNat : Int))) ∧
    -32767 ≤ synthSample lut phase ∧ synthSample lut phase ≤ 32767

/-- R130: the output is antisymmetric over half a cycle. -/
def Obligations.SynthIsAntisymmetric : Prop :=
  ∀ (lut : Vector LutEntry 64) (phase : Phase),
    synthSample lut (phase + 0x8000#16) = -synthSample lut phase

/-! ### The transmit state machine (46_transmit.md) -/

/-- R131, R133: the value sent is BYTE mod 2^D, and the bits of its frame word, under a legal serial
configuration. -/
def Obligations.FrameWordBits : Prop :=
  ∀ (c : SerCfg) (byte : Byte), SerialLegal c →
    let w := frameWord c (maskData c byte)
    (maskData c byte).toNat = byte.toNat % 2 ^ c.numData ∧
    w.getLsbD 0 = false ∧
    (∀ i, i < c.numData → w.getLsbD (1 + i) = byte.getLsbD i) ∧
    (c.parityBits = true → w.getLsbD (1 + c.numData) = parityOf c.parityKind (maskData c byte)) ∧
    (∀ i, c.stopStart ≤ i → i < c.numFrame → w.getLsbD i = true) ∧
    (∀ i, c.numFrame ≤ i → w.getLsbD i = false)

/-- R132, R9: even parity makes the number of ones in data and parity bit even, odd makes it odd, space is 0
and mark is 1; the number of ones is 0 for 0 and one more for each further bit set. That even and odd speak
of the total is the spec's sentence "That even parity makes the total number of 1s in the data and parity
bits even", which R132 marks as general knowledge; it agrees with R132's table. -/
def Obligations.ParityMakesTotal : Prop :=
  (∀ v : Byte, parityOf .space v = false ∧ parityOf .mark v = true ∧
    (popcount v + (parityOf .even v).toNat) % 2 = 0 ∧ (popcount v + (parityOf .odd v).toNat) % 2 = 1) ∧
  popcount 0#8 = 0 ∧
  (∀ (v : Byte) (i : Nat), i < 8 → v.getLsbD i = false → popcount (v ||| 1#8 <<< i) = popcount v + 1)

/-- R142: the 8-case table, as what TX_PUSH (restart) and TICK do to the transmit state; with the slot full
TX_PUSH is refused whether or not a word is shifting. -/
def Obligations.TransmitCaseTable : Prop :=
  (∀ (s : State) (byte : Byte), s.ctl.txEn = true → s.tx.byte.full = true → ∃ t,
    exec (.txPush byte) s = .next t ∧ t.responses = s.responses ++ [0x70000000#32] ∧ t.tx = s.tx ∧
      t.ctl = { s.ctl with ovrSeen := true }) ∧
  ∀ (cfg : ConfigRegs) (byte : Byte) (b : ByteState),
    let w := frameWord cfg.ser (maskData cfg.ser byte)
    let n := BitVec.ofNat 5 cfg.ser.numFrame
    (b.full = false → b.rem = 0#5 → pushByte cfg byte b =
      ({ cur := w, nxt := w, rem := n, full := false, tone := w.getLsbD 0, timer := cfg.spb }, true)) ∧
    (b.full = false → b.rem ≠ 0#5 → pushByte cfg byte b = ({ b with nxt := w, full := true }, false)) ∧
    (b.full = false → b.rem = 0#5 → tick cfg.ser b = ({ b with tone := true }, false)) ∧
    (b.full = false → b.rem ≠ 0#5 → tick cfg.ser b =
      ({ b with cur := b.cur >>> 1, rem := b.rem - 1#5
                tone := if b.rem = 1#5 then true else b.cur.getLsbD 1 }, false)) ∧
    (b.full = true → b.rem = 1#5 → tick cfg.ser b =
      ({ b with cur := b.nxt, rem := n, full := false, tone := b.nxt.getLsbD 0 }, true)) ∧
    (b.full = true → 2 ≤ b.rem.toNat → tick cfg.ser b =
      ({ b with cur := b.cur >>> 1, rem := b.rem - 1#5, tone := b.cur.getLsbD 1 }, false)) ∧
    (b.full = true → b.rem = 0#5 → tick cfg.ser b =
      ({ b with cur := b.nxt, rem := n, full := false, tone := b.nxt.getLsbD 0 }, true))

/-- R135: with the transmit session enabled and the pending slot empty, TX_PUSH completes: it is promoted at
once when idle, and fills the slot when busy. -/
def Obligations.TxPushCompletes : Prop :=
  ∀ (s : State) (byte : Byte), s.ctl.txEn = true → s.tx.byte.full = false →
    let w := frameWord s.cfg.ser (maskData s.cfg.ser byte)
    (s.tx.byte.rem = 0#5 → exec (.txPush byte) s =
      .next (State.answered
        { s with tx := { s.tx with byte :=
          { cur := w, nxt := w, rem := BitVec.ofNat 5 s.cfg.ser.numFrame, full := false
            tone := w.getLsbD 0, timer := s.cfg.spb } } } 0x00010000#32)) ∧
    (s.tx.byte.rem ≠ 0#5 → exec (.txPush byte) s =
      .next (State.answered
        { s with tx := { s.tx with byte := { s.tx.byte with nxt := w, full := true } } } 0x00000000#32))

/-- R143: a TX_PUSH into a full slot is answered OVERRUN, sets OVR_SEEN and changes nothing else. -/
def Obligations.TxPushOverrun : Prop :=
  ∀ (s : State) (byte : Byte), s.ctl.txEn = true → s.tx.byte.full = true →
    exec (.txPush byte) s =
      .next (State.answered { s with ctl := { s.ctl with ovrSeen := true } } 0x70000000#32)

/-- R138, R123, R127: with the transmit session enabled TX_SAMPLE completes: a bit boundary when the timer is
0, one sample read at the phase before it advances by the step of the tone, and the timer counted down. -/
def Obligations.TxSampleCompletes : Prop :=
  ∀ s : State, s.ctl.txEn = true →
    let atBoundary := s.tx.byte.timer = 0#16
    let b := if atBoundary then { (tick s.cfg.ser s.tx.byte).1 with timer := s.cfg.spb } else s.tx.byte
    let promoted := if atBoundary then (tick s.cfg.ser s.tx.byte).2 else false
    exec .txSample s =
      .next (State.answered
        { s with tx :=
          { byte := { b with timer := b.timer - 1#16 }
            phase := s.tx.phase + s.tab.step[2 * s.cfg.txCh.toNat + b.tone.toNat]'(by
              cases s.cfg.txCh <;> cases b.tone <;> decide) } }
        (0#11 ++ BitVec.ofBool b.full ++ BitVec.ofBool (decide (0 < b.rem.toNat)) ++ BitVec.ofBool b.tone ++
          BitVec.ofBool (decide atBoundary) ++ BitVec.ofBool promoted ++
          BitVec.ofInt 16 (synthSample s.tab.lut s.tx.phase)))

/-- R139: after a push that is promoted at once, frame bit k is the tone of samples k·SPB + 1 to
(k + 1)·SPB, with a tick at the first of them for every k ≥ 1, and the next tick returns to the idle mark
tone. Bits 16 to 20 of a response are PROMOTED, TICK, TONE, BUSY, FULL. -/
def Obligations.FrameBitsHeldForSpbSamples : Prop :=
  ∀ (s : State) (byte : Byte), s.ctl.txEn = true → TxConfigLegal s.cfg →
    s.tx.byte.rem = 0#5 → s.tx.byte.full = false →
    let after := fun n => afterCommands (.txPush byte :: List.replicate n .txSample) s
    let w := frameWord s.cfg.ser (maskData s.cfg.ser byte)
    let total := s.cfg.ser.numFrame * s.cfg.spb.toNat
    (∀ k j, k < s.cfg.ser.numFrame → j < s.cfg.spb.toNat →
      (after (k * s.cfg.spb.toNat + j + 1)).tx.byte.tone = w.getLsbD k ∧
      ∃ p, (after (k * s.cfg.spb.toNat + j + 1)).responses.getLast? = some p ∧
        p.getLsbD 16 = false ∧ p.getLsbD 17 = decide (j = 0 ∧ 1 ≤ k) ∧ p.getLsbD 18 = w.getLsbD k ∧
        p.getLsbD 19 = true ∧ p.getLsbD 20 = false) ∧
    (after (total + 1)).tx.byte.rem = 0#5 ∧ (after (total + 1)).tx.byte.tone = true ∧
    ∃ p, (after (total + 1)).responses.getLast? = some p ∧
      p.getLsbD 17 = true ∧ p.getLsbD 18 = true ∧ p.getLsbD 19 = false

/-- R141: a byte pushed while the first is busy, before the tick at sample N_FRAME·SPB + 1, fills the slot,
and that tick promotes it: the next frame's first sample is that same TX_SAMPLE. -/
def Obligations.GaplessTransmission : Prop :=
  ∀ (s : State) (first second : Byte) (m : Nat), s.ctl.txEn = true → TxConfigLegal s.cfg →
    s.tx.byte.rem = 0#5 → s.tx.byte.full = false → m ≤ s.cfg.ser.numFrame * s.cfg.spb.toNat →
    let rest := s.cfg.ser.numFrame * s.cfg.spb.toNat - m
    let pushed := afterCommands (.txPush first :: List.replicate m .txSample ++ [.txPush second]) s
    let t := afterCommands (List.replicate rest .txSample ++ [.txSample]) pushed
    pushed.responses.getLast? = some 0x00000000#32 ∧
    t.tx.byte.cur = frameWord s.cfg.ser (maskData s.cfg.ser second) ∧
    t.tx.byte.rem.toNat = s.cfg.ser.numFrame ∧ t.tx.byte.full = false ∧ t.tx.byte.tone = false ∧
    t.tx.byte.timer.toNat = s.cfg.spb.toNat - 1 ∧
    ∃ p, t.responses.getLast? = some p ∧ p.getLsbD 16 = true ∧ p.getLsbD 17 = true ∧
      p.getLsbD 18 = false ∧ p.getLsbD 19 = true

/-- W10 of 95_test_vectors.md at the level of tones: the tones of the samples of a pushed byte, read as
levels above and below LEVEL_T by a decoder of the same configuration whose arming step is the first of
them, give back BYTE mod 2^D with no parity mismatch, for every legal configuration with OFFSET < SPB. -/
def Obligations.ToneLoopbackReturnsByte : Prop :=
  ∀ (s : State) (byte : Byte) (d : DecoderState) (level : Nat → Level),
    s.ctl.txEn = true → RxConfigLegal s.cfg → s.cfg.offset.toNat < s.cfg.spb.toNat →
    s.tx.byte.rem = 0#5 → s.tx.byte.full = false →
    d.off = s.cfg.offset → d.bit = 0#5 → d.byte = 0#8 → d.par = false → d.last = level 0 →
    (∀ n, n < s.cfg.ser.numFrame * s.cfg.spb.toNat →
      (s.cfg.levelT.toInt ≤ (level n).toInt ↔
        (afterCommands (.txPush byte :: List.replicate (n + 1) .txSample) s).tx.byte.tone = true)) →
    decoderResult s.cfg d level (s.cfg.offset.toNat + (s.cfg.ser.numFrame - 1) * s.cfg.spb.toNat) =
      { bv := true, out := maskData s.cfg.ser byte, fe := false, pe := false
        rp := s.cfg.ser.parityBits && parityOf s.cfg.ser.parityKind (maskData s.cfg.ser byte) }

/-! ### Frames, independence and invariants -/

/-- R46: what NOP, RDREG, WRREG, START and STOP leave unchanged. -/
def Obligations.ControlCommandFrames : Prop :=
  ∀ s t : State,
    (exec .nop s = .next t → SameBlock s t ∧ t.inputs = s.inputs) ∧
    (∀ n, exec (.rdreg n) s = .next t → SameBlock s t ∧ t.inputs = s.inputs) ∧
    (∀ n v, exec (.wrreg n v) s = .next t →
      t.rx = s.rx ∧ t.tx = s.tx ∧ t.ctl.rxEn = s.ctl.rxEn ∧ t.ctl.txEn = s.ctl.txEn ∧ t.inputs = s.inputs ∧
      (n ≠ 0x02#8 → t.ctl = s.ctl) ∧
      ∀ r : CfgReg, regOf n ≠ some (.cfg r) → readCfg t r = readCfg s r) ∧
    (∀ rx tx, exec (.start rx tx) s = .next t →
      t.cfg = s.cfg ∧ t.tab = s.tab ∧ t.inputs = s.inputs ∧
      t.ctl.feSeen = s.ctl.feSeen ∧ t.ctl.peSeen = s.ctl.peSeen ∧ t.ctl.ovrSeen = s.ctl.ovrSeen ∧
      t.ctl.lsSeen = s.ctl.lsSeen ∧
      (rx = false → t.rx = s.rx ∧ t.ctl.rxEn = s.ctl.rxEn) ∧
      (tx = false → t.tx = s.tx ∧ t.ctl.txEn = s.ctl.txEn)) ∧
    (∀ rx tx, exec (.stop rx tx) s = .next t →
      t.cfg = s.cfg ∧ t.tab = s.tab ∧ t.rx = s.rx ∧ t.tx = s.tx ∧ t.inputs = s.inputs ∧
      t.ctl.feSeen = s.ctl.feSeen ∧ t.ctl.peSeen = s.ctl.peSeen ∧ t.ctl.ovrSeen = s.ctl.ovrSeen ∧
      t.ctl.lsSeen = s.ctl.lsSeen ∧
      (rx = false → t.ctl.rxEn = s.ctl.rxEn) ∧ (tx = false → t.ctl.txEn = s.ctl.txEn))

/-- R14, R46: what RX_SAMPLE, TX_PUSH and TX_SAMPLE leave unchanged; no operation of one pipeline touches
the other's session state. -/
def Obligations.PumpCommandFrames : Prop :=
  ∀ s t : State,
    (∀ sample, exec (.rxSample sample) s = .next t →
      t.cfg = s.cfg ∧ t.tab = s.tab ∧ t.tx = s.tx ∧ t.inputs = s.inputs ∧
      t.ctl.rxEn = s.ctl.rxEn ∧ t.ctl.txEn = s.ctl.txEn ∧ t.ctl.ovrSeen = s.ctl.ovrSeen) ∧
    (∀ byte, exec (.txPush byte) s = .next t →
      t.cfg = s.cfg ∧ t.tab = s.tab ∧ t.rx = s.rx ∧ t.tx.phase = s.tx.phase ∧ t.inputs = s.inputs ∧
      t.ctl = { s.ctl with ovrSeen := t.ctl.ovrSeen }) ∧
    (exec .txSample s = .next t →
      t.cfg = s.cfg ∧ t.tab = s.tab ∧ t.rx = s.rx ∧ t.ctl = s.ctl ∧ t.tx.byte.nxt = s.tx.byte.nxt ∧
      t.inputs = s.inputs)

/-- R178: any interleaving of receive and transmit commands gives each pipeline the same session state,
sticky bits and responses as running its commands alone in the same order. -/
def Obligations.InterleavingKeepsPipelines : Prop :=
  ∀ (is : List Instr) (s : State), (∀ i ∈ is, isReceive i = true ∨ isTransmit i = true) →
    let t := afterCommands is s
    let r := afterCommands (is.filter isReceive) s
    let x := afterCommands (is.filter isTransmit) s
    t.rx = r.rx ∧ t.ctl.feSeen = r.ctl.feSeen ∧ t.ctl.peSeen = r.ctl.peSeen ∧ t.ctl.lsSeen = r.ctl.lsSeen ∧
    t.tx = x.tx ∧ t.ctl.ovrSeen = x.ctl.ovrSeen ∧
    (answers is s).filter (fun a => isReceive a.1) = answers (is.filter isReceive) s ∧
    (answers is s).filter (fun a => isTransmit a.1) = answers (is.filter isTransmit) s

/-- R52: while a session is enabled no command but SRST changes the configuration or a table. -/
def Obligations.ConfigFixedDuringSession : Prop :=
  ∀ (s t : State) (c : CommandWord) (rest : List PortInput), s.inputs = .command c :: rest →
    (s.ctl.rxEn = true ∨ s.ctl.txEn = true) → decode c ≠ .ok .srst → step s = .next t →
    t.cfg = s.cfg ∧ t.tab = s.tab

/-- R34: a sticky bit that is set stays set until a STATUS write clears it or the block is reset; START and
STOP do not clear it. -/
def Obligations.StickyBitsPersist : Prop :=
  ∀ (s t : State) (c : CommandWord) (rest : List PortInput), s.inputs = .command c :: rest →
    decode c ≠ .ok .srst → (∀ v, decode c ≠ .ok (.wrreg 0x02#8 v)) → step s = .next t →
    (s.ctl.feSeen = true → t.ctl.feSeen = true) ∧ (s.ctl.peSeen = true → t.ctl.peSeen = true) ∧
    (s.ctl.ovrSeen = true → t.ctl.ovrSeen = true) ∧ (s.ctl.lsSeen = true → t.ctl.lsSeen = true)

/-- R42 at reset: no session is enabled, so the invariants hold. -/
def Obligations.ResetHasSessionInvariants : Prop :=
  SessionInv State.reset

/-- R42: the invariants of both pipelines hold after every step from every state in which they hold. -/
def Obligations.StepKeepsSessionInvariants : Prop :=
  ∀ s t : State, SessionInv s → step s = .next t → SessionInv t

/-! ### Pseudo-commands (30_encoding.md R79) -/

/-- R79: the command words each pseudo-command stands for. -/
def Obligations.PseudoCommandsExpand : Prop :=
  (∀ v : BitVec 64, (expandPseudo (.wr64Thresh v)).map encode =
    [0x300C#16 ++ v.extractLsb' 0 16, 0x300D#16 ++ v.extractLsb' 16 16,
     0x300E#16 ++ v.extractLsb' 32 16, 0x300F#16 ++ v.extractLsb' 48 16]) ∧
  (∀ (f : Fin 4) (b0 b1 a2 : RegVal), (expandPseudo (.wrcoef f b0 b1 a2)).map encode =
    [BitVec.ofNat 16 (0x3010 + 3 * f.val) ++ b0, BitVec.ofNat 16 (0x3011 + 3 * f.val) ++ b1,
     BitVec.ofNat 16 (0x3012 + 3 * f.val) ++ a2]) ∧
  (∀ n : RegNum, n = 0x0C#8 ∨ n = 0x28#8 ∨ n = 0x2C#8 → expandPseudo (.rd64 n) =
    [.rdreg n, .rdreg (n + 1#8), .rdreg (n + 2#8), .rdreg (n + 3#8)]) ∧
  (expandPseudo .clrstat).map encode = [0x30020F00#32] ∧
  (∀ k, expandPseudo (.txSamples k) = List.replicate k .txSample) ∧
  (∀ xs, expandPseudo (.rxSamples xs) = xs.map .rxSample)

/-- R28, R79: WR64 THRESH, v run with no session enabled sets THRESH to v and changes no other
configuration register. -/
def Obligations.Wr64SetsThreshold : Prop :=
  ∀ (s : State) (v : BitVec 64), s.ctl.rxEn = false → s.ctl.txEn = false →
    let t := afterCommands (expandPseudo (.wr64Thresh v)) s
    (threshOf t.cfg).toNat = v.toNat ∧ t.ctl = s.ctl ∧ t.rx = s.rx ∧ t.tx = s.tx ∧
      ∀ r : CfgReg, (∀ j, r ≠ .thresh j) → readCfg t r = readCfg s r

/-- The model's choice of log entry 2: a word placed by withFetchWord is what the very next step runs. -/
def Obligations.FetchedWordRunsNext : Prop :=
  ∀ (s : State) (nbits w : Nat) (i : Instr), decode (tableWord nbits w) = .ok i →
    step (s.withFetchWord nbits w) = exec i s
end

