-- ==== Sys2Proof/Laws/Bits.lean ====
section
/-! SUPPORT. Bit vectors as numbers: the concatenations and fields of the block's words in the form `omega`
works with. -/

namespace Sys2Proof.Laws

/-- The number of a concatenation. -/
theorem toNat_append_eq {n m : Nat} (x : BitVec n) (y : BitVec m) :
    (x ++ y).toNat = x.toNat * 2 ^ m + y.toNat := by
  rw [BitVec.toNat_append, ← Nat.shiftLeft_add_eq_or_of_lt y.isLt, Nat.shiftLeft_eq]

/-- The number of a field. -/
theorem toNat_extract_eq {n : Nat} (x : BitVec n) (s l : Nat) :
    (x.extractLsb' s l).toNat = x.toNat / 2 ^ s % 2 ^ l := by
  rw [BitVec.extractLsb'_toNat, Nat.shiftRight_eq_div_pow]

/-- A bit as a test on the number. -/
theorem getLsbD_eq_decide {n : Nat} (x : BitVec n) (i : Nat) :
    x.getLsbD i = decide (x.toNat / 2 ^ i % 2 = 1) := by
  rw [BitVec.getLsbD, Nat.testBit_eq_decide_div_mod_eq]

/-- A bit as a number. -/
theorem toNat_getLsbD_eq {n : Nat} (x : BitVec n) (i : Nat) : (x.getLsbD i).toNat = x.toNat / 2 ^ i % 2 := by
  rw [getLsbD_eq_decide]
  by_cases h : x.toNat / 2 ^ i % 2 = 1 <;> simp [h]
  omega

/-- A concatenation is determined by its two parts. -/
theorem extract_append_self {n s l : Nat} (x : BitVec n) (h : s + l = n) :
    (x.extractLsb' s l).toNat * 2 ^ s + (x.extractLsb' 0 s).toNat = x.toNat := by
  rw [toNat_extract_eq, toNat_extract_eq, Nat.pow_zero, Nat.div_one]
  have hlt : x.toNat / 2 ^ s < 2 ^ l := by
    rw [Nat.div_lt_iff_lt_mul (by positivity), ← Nat.pow_add, Nat.add_comm l s, h]
    exact x.isLt
  rw [Nat.mod_eq_of_lt hlt]
  exact Nat.div_add_mod' x.toNat (2 ^ s)

/-- A signed value that fits a width is kept by it. -/
theorem toInt_ofInt_of_fits {w : Nat} (v : Int) (hw : 0 < w) (lo : -(2 ^ (w - 1) : Int) ≤ v)
    (hi : v < 2 ^ (w - 1)) : (BitVec.ofInt w v).toInt = v := by
  have h2 : (2 : Int) ^ w = 2 * 2 ^ (w - 1) := by
    conv_lhs => rw [← Nat.sub_add_cancel hw]
    rw [pow_succ]; ring
  rw [BitVec.toInt_ofInt]
  apply Int.bmod_eq_of_le <;> push_cast <;> rw [h2] <;> omega

/-- A 16-bit signed value by its number. -/
theorem toInt_16 (x : BitVec 16) :
    x.toInt = if x.toNat < 32768 then (x.toNat : Int) else (x.toNat : Int) - 65536 := by
  have := x.isLt
  rw [BitVec.toInt_eq_toNat_cond]
  split <;> split <;> push_cast <;> omega

/-- Counting a positive 16-bit value down by one, as a number. -/
theorem toNat_sub_one (x : BitVec 16) (h : 0 < x.toInt) : (x - 1#16).toNat = x.toNat - 1 := by
  have := x.isLt
  rw [toInt_16] at h
  rw [BitVec.toNat_sub]
  simp only [BitVec.toNat_ofNat]
  split at h <;> omega

/-- Counting a positive 16-bit value down by one, as a signed value. -/
theorem toInt_sub_one (x : BitVec 16) (h : 0 < x.toInt) : (x - 1#16).toInt = x.toInt - 1 := by
  have h1 := toNat_sub_one x h
  have := x.isLt
  rw [toInt_16, toInt_16, h1]
  rw [toInt_16] at h
  split at h <;> (try split) <;> omega

/-- A value of at least 2 is not counted down to 0. -/
theorem sub_one_ne_zero (x : BitVec 16) (h : 2 ≤ x.toInt) : x - 1#16 ≠ 0#16 := by
  intro h2
  have h3 := toInt_sub_one x (by omega)
  rw [h2] at h3
  simp at h3
  omega

/-- Counting a 5-bit value down by one. -/
theorem toNat_sub_one_5 : ∀ x : BitVec 5, x ≠ 0#5 → (x - 1#5).toNat = x.toNat - 1 := by decide

/-- A bit vector is 0 exactly when its number is. -/
theorem toNat_eq_zero_iff {w : Nat} (x : BitVec w) : x.toNat = 0 ↔ x = 0#w := by
  rw [← BitVec.toNat_inj]
  simp

/-- A bit vector is not 0 exactly when its number is positive. -/
theorem toNat_pos_iff {w : Nat} (x : BitVec w) : 0 < x.toNat ↔ x ≠ 0#w := by
  rw [ne_eq, ← toNat_eq_zero_iff]
  omega

end Sys2Proof.Laws
end

