-- ==== Sys2Proof/Laws/State.lean ====
section
/-! SUPPORT. One lemma for each field and each update of the state, true by rfl. -/

namespace Sys2Proof.Machine

/-! ### One more response -/

@[simp] theorem State.answered_inputs (s : State) (p : ResponseWord) : (s.answered p).inputs = s.inputs := rfl
@[simp] theorem State.answered_responses (s : State) (p : ResponseWord) :
    (s.answered p).responses = s.responses ++ [p] := rfl
@[simp] theorem State.answered_cfg (s : State) (p : ResponseWord) : (s.answered p).cfg = s.cfg := rfl
@[simp] theorem State.answered_tab (s : State) (p : ResponseWord) : (s.answered p).tab = s.tab := rfl
@[simp] theorem State.answered_ctl (s : State) (p : ResponseWord) : (s.answered p).ctl = s.ctl := rfl
@[simp] theorem State.answered_rx (s : State) (p : ResponseWord) : (s.answered p).rx = s.rx := rfl
@[simp] theorem State.answered_tx (s : State) (p : ResponseWord) : (s.answered p).tx = s.tx := rfl

/-! ### Reset -/

@[simp] theorem resetBlock_inputs (s : State) : (resetBlock s).inputs = s.inputs := rfl
@[simp] theorem resetBlock_responses (s : State) : (resetBlock s).responses = s.responses := rfl
@[simp] theorem resetBlock_cfg (s : State) : (resetBlock s).cfg = State.reset.cfg := rfl
@[simp] theorem resetBlock_tab (s : State) : (resetBlock s).tab = State.reset.tab := rfl
@[simp] theorem resetBlock_ctl (s : State) : (resetBlock s).ctl = State.reset.ctl := rfl
@[simp] theorem resetBlock_rx (s : State) : (resetBlock s).rx = State.reset.rx := rfl
@[simp] theorem resetBlock_tx (s : State) : (resetBlock s).tx = State.reset.tx := rfl

/-! ### Register writes -/

@[simp] theorem writeCfg_inputs (r : CfgReg) (v : RegVal) (s : State) :
    (writeCfg r v s).inputs = s.inputs := by cases r <;> rfl
@[simp] theorem writeCfg_responses (r : CfgReg) (v : RegVal) (s : State) :
    (writeCfg r v s).responses = s.responses := by cases r <;> rfl
@[simp] theorem writeCfg_ctl (r : CfgReg) (v : RegVal) (s : State) :
    (writeCfg r v s).ctl = s.ctl := by cases r <;> rfl
@[simp] theorem writeCfg_rx (r : CfgReg) (v : RegVal) (s : State) :
    (writeCfg r v s).rx = s.rx := by cases r <;> rfl
@[simp] theorem writeCfg_tx (r : CfgReg) (v : RegVal) (s : State) :
    (writeCfg r v s).tx = s.tx := by cases r <;> rfl

@[simp] theorem writeStatus_inputs (v : RegVal) (s : State) : (writeStatus v s).inputs = s.inputs := rfl
@[simp] theorem writeStatus_responses (v : RegVal) (s : State) :
    (writeStatus v s).responses = s.responses := rfl
@[simp] theorem writeStatus_cfg (v : RegVal) (s : State) : (writeStatus v s).cfg = s.cfg := rfl
@[simp] theorem writeStatus_tab (v : RegVal) (s : State) : (writeStatus v s).tab = s.tab := rfl
@[simp] theorem writeStatus_ctl (v : RegVal) (s : State) : (writeStatus v s).ctl = clearSticky v s.ctl := rfl
@[simp] theorem writeStatus_rx (v : RegVal) (s : State) : (writeStatus v s).rx = s.rx := rfl
@[simp] theorem writeStatus_tx (v : RegVal) (s : State) : (writeStatus v s).tx = s.tx := rfl

@[simp] theorem clearSticky_rxEn (v : RegVal) (c : Control) : (clearSticky v c).rxEn = c.rxEn := rfl
@[simp] theorem clearSticky_txEn (v : RegVal) (c : Control) : (clearSticky v c).txEn = c.txEn := rfl
@[simp] theorem clearSticky_feSeen (v : RegVal) (c : Control) :
    (clearSticky v c).feSeen = (c.feSeen && !v.getLsbD 8) := rfl
@[simp] theorem clearSticky_peSeen (v : RegVal) (c : Control) :
    (clearSticky v c).peSeen = (c.peSeen && !v.getLsbD 9) := rfl
@[simp] theorem clearSticky_ovrSeen (v : RegVal) (c : Control) :
    (clearSticky v c).ovrSeen = (c.ovrSeen && !v.getLsbD 10) := rfl
@[simp] theorem clearSticky_lsSeen (v : RegVal) (c : Control) :
    (clearSticky v c).lsSeen = (c.lsSeen && !v.getLsbD 11) := rfl

/-! ### Sessions -/

@[simp] theorem openSessions_inputs (rx tx : Bool) (s : State) :
    (openSessions rx tx s).inputs = s.inputs := rfl
@[simp] theorem openSessions_responses (rx tx : Bool) (s : State) :
    (openSessions rx tx s).responses = s.responses := rfl
@[simp] theorem openSessions_cfg (rx tx : Bool) (s : State) : (openSessions rx tx s).cfg = s.cfg := rfl
@[simp] theorem openSessions_tab (rx tx : Bool) (s : State) : (openSessions rx tx s).tab = s.tab := rfl
@[simp] theorem openSessions_ctl (rx tx : Bool) (s : State) :
    (openSessions rx tx s).ctl = { s.ctl with rxEn := s.ctl.rxEn || rx, txEn := s.ctl.txEn || tx } := rfl
@[simp] theorem openSessions_rx (rx tx : Bool) (s : State) :
    (openSessions rx tx s).rx = if rx then rxInit else s.rx := rfl
@[simp] theorem openSessions_tx (rx tx : Bool) (s : State) :
    (openSessions rx tx s).tx = if tx then txInit else s.tx := rfl

/-! ### The port -/

@[simp] theorem issueFirst_inputs (c : CommandWord) (s : State) :
    (issueFirst c s).inputs = .command c :: s.inputs := rfl
@[simp] theorem issueFirst_responses (c : CommandWord) (s : State) :
    (issueFirst c s).responses = s.responses := rfl
@[simp] theorem issueFirst_cfg (c : CommandWord) (s : State) : (issueFirst c s).cfg = s.cfg := rfl
@[simp] theorem issueFirst_tab (c : CommandWord) (s : State) : (issueFirst c s).tab = s.tab := rfl
@[simp] theorem issueFirst_ctl (c : CommandWord) (s : State) : (issueFirst c s).ctl = s.ctl := rfl
@[simp] theorem issueFirst_rx (c : CommandWord) (s : State) : (issueFirst c s).rx = s.rx := rfl
@[simp] theorem issueFirst_tx (c : CommandWord) (s : State) : (issueFirst c s).tx = s.tx := rfl

/-! ### The receive pipeline -/

@[simp] theorem filterAndEnergy_cur (cfg : ConfigRegs) (tab : Tables) (rx : RxSession) (x : FiltWord) :
    (filterAndEnergy cfg tab rx x).cur = rx.cur := rfl
@[simp] theorem filterAndEnergy_dec (cfg : ConfigRegs) (tab : Tables) (rx : RxSession) (x : FiltWord) :
    (filterAndEnergy cfg tab rx x).dec = rx.dec := rfl
@[simp] theorem filterStep_p (b0 b1 a2 : Int) (fs : FilterState) (x : FiltWord) :
    (filterStep b0 b1 a2 fs x).1.p = nextSlot fs.p := rfl
@[simp] theorem filterStep_xin (b0 b1 a2 : Int) (fs : FilterState) (x : FiltWord) :
    (filterStep b0 b1 a2 fs x).1.xin = fs.xin.set fs.p.val x := rfl
@[simp] theorem filterStep_yout (b0 b1 a2 : Int) (fs : FilterState) (x : FiltWord) :
    (filterStep b0 b1 a2 fs x).1.yout = fs.yout.set fs.p.val (filterStep b0 b1 a2 fs x).2 := rfl
@[simp] theorem energyStep_win (w : Nat) (es : EnergyState) (y : FiltWord) :
    (energyStep w es y).win = es.win.set es.ptr.val (squareOf y) := rfl
@[simp] theorem energyStep_sum (w : Nat) (es : EnergyState) (y : FiltWord) :
    (energyStep w es y).sum = es.sum - es.win[es.ptr.val] + squareOf y := rfl
@[simp] theorem energyStep_primed (w : Nat) (es : EnergyState) (y : FiltWord) :
    (energyStep w es y).primed = (es.primed || decide (w ≤ es.ptr.val + 1)) := rfl
@[simp] theorem decoderIdle_off (d : DecoderState) : (decoderIdle d).off = 0xFFFF#16 := rfl
@[simp] theorem decoderIdle_last (d : DecoderState) : (decoderIdle d).last = d.last := rfl
@[simp] theorem decoderIdle_bit (d : DecoderState) : (decoderIdle d).bit = 0#5 := rfl
@[simp] theorem decoderIdle_byte (d : DecoderState) : (decoderIdle d).byte = 0#8 := rfl
@[simp] theorem decoderIdle_par (d : DecoderState) : (decoderIdle d).par = false := rfl
@[simp] theorem decodeLevel_last (cfg : ConfigRegs) (d : DecoderState) (level : Level) :
    (decodeLevel cfg d level).1.last = level := rfl
@[simp] theorem decodeLevel_result (cfg : ConfigRegs) (d : DecoderState) (level : Level) :
    (decodeLevel cfg d level).2 = (countDown cfg d level).2 := rfl

/-! ### The transmit pipeline -/

@[simp] theorem promote_cur (c : SerCfg) (b : ByteState) : (promote c b).cur = b.nxt := rfl
@[simp] theorem promote_nxt (c : SerCfg) (b : ByteState) : (promote c b).nxt = b.nxt := rfl
@[simp] theorem promote_rem (c : SerCfg) (b : ByteState) : (promote c b).rem = BitVec.ofNat 5 c.numFrame := rfl
@[simp] theorem promote_full (c : SerCfg) (b : ByteState) : (promote c b).full = false := rfl
@[simp] theorem promote_tone (c : SerCfg) (b : ByteState) : (promote c b).tone = b.nxt.getLsbD 0 := rfl
@[simp] theorem promote_timer (c : SerCfg) (b : ByteState) : (promote c b).timer = b.timer := rfl
@[simp] theorem afterSample_phase (cfg : ConfigRegs) (tab : Tables) (k : Boundary) (phase : Phase) :
    (afterSample cfg tab k phase).phase = phase + stepOf tab (slotOf cfg.txCh k.byte.tone) := rfl
@[simp] theorem afterSample_byte (cfg : ConfigRegs) (tab : Tables) (k : Boundary) (phase : Phase) :
    (afterSample cfg tab k phase).byte = { k.byte with timer := k.byte.timer - 1#16 } := rfl

end Sys2Proof.Machine
end

