-- ==== Sys2Proof/Laws/Decoder.lean ====
section
/-! SUPPORT. What the parts of DECODE can do, one lemma for each case of spec/44_decoder.md R106 to R115. -/

namespace Sys2Proof.Machine

open Sys2Proof.Laws

/-- The bit of a level at or above LEVEL_T. -/
theorem bitOfLevel_true {threshold level : Level} :
    bitOfLevel threshold level = true ↔ threshold.toInt ≤ level.toInt := by simp [bitOfLevel]

/-- The bit of a level below LEVEL_T. -/
theorem bitOfLevel_false {threshold level : Level} :
    bitOfLevel threshold level = false ↔ level.toInt < threshold.toInt := by simp [bitOfLevel]

/-- Accepting a bit touches only `byte` and `par`. -/
theorem acceptBit_frame {ser : SerCfg} {d d' : DecoderState} {b : Bool} (h : acceptBit ser d b = some d') :
    d'.off = d.off ∧ d'.last = d.last ∧ d'.bit = d.bit := by
  unfold acceptBit at h
  dsimp only at h
  split at h
  · cases b <;> simp at h
    rw [← h]; exact ⟨rfl, rfl, rfl⟩
  · split at h
    · simp at h; rw [← h]; exact ⟨rfl, rfl, rfl⟩
    · split at h
      · simp at h; rw [← h]; exact ⟨rfl, rfl, rfl⟩
      · cases b <;> simp at h
        rw [← h]; exact ⟨rfl, rfl, rfl⟩

/-- A bit is refused exactly where it is a start bit of 1 or a stop bit of 0 (R109, R112). -/
theorem acceptBit_none {ser : SerCfg} {d : DecoderState} {b : Bool} :
    acceptBit ser d b = none ↔
      (d.bit.toNat = 0 ∧ b = true) ∨ (ser.stopStart ≤ d.bit.toNat ∧ 1 ≤ d.bit.toNat ∧ b = false) := by
  have hs : ser.parStart ≤ ser.stopStart := by simp only [SerCfg.parStart, SerCfg.stopStart]; omega
  unfold acceptBit
  dsimp only
  split
  · cases b <;> simp <;> omega
  · split
    · simp; omega
    · split
      · simp; omega
      · cases b <;> simp <;> omega

/-- A start bit of 0 is accepted and changes nothing (R109). -/
theorem acceptBit_start {ser : SerCfg} {d : DecoderState} (h : d.bit.toNat = 0) :
    acceptBit ser d false = some d := by simp [acceptBit, h]

/-- Data bit i - 1 goes to bit i - 1 of DEC.byte (R110). -/
theorem acceptBit_data {ser : SerCfg} {d : DecoderState} {b : Bool} (h1 : 1 ≤ d.bit.toNat)
    (h2 : d.bit.toNat < ser.parStart) :
    acceptBit ser d b =
      some { d with byte := d.byte ||| BitVec.ofNat 8 (b.toNat * 2 ^ (d.bit.toNat - 1)) } := by
  unfold acceptBit
  dsimp only
  rw [if_neg (by omega), if_pos h2]

/-- The parity bit goes to DEC.par (R111). -/
theorem acceptBit_parity {ser : SerCfg} {d : DecoderState} {b : Bool} (h1 : ser.parStart ≤ d.bit.toNat)
    (h2 : d.bit.toNat < ser.stopStart) : acceptBit ser d b = some { d with par := b } := by
  have : 1 ≤ ser.parStart := by simp only [SerCfg.parStart]; omega
  unfold acceptBit
  dsimp only
  rw [if_neg (by omega), if_neg (by omega), if_pos h2]

/-- A stop bit of 1 is accepted and changes nothing (R112). -/
theorem acceptBit_stop {ser : SerCfg} {d : DecoderState} (h : ser.stopStart ≤ d.bit.toNat) :
    acceptBit ser d true = some d := by
  have : 1 ≤ ser.parStart ∧ ser.parStart ≤ ser.stopStart := by
    simp only [SerCfg.parStart, SerCfg.stopStart]; omega
  unfold acceptBit
  dsimp only
  rw [if_neg (by omega), if_neg (by omega), if_neg (by omega), if_pos rfl]

/-- Everything a sampling instant can do: refuse the bit, complete the frame, or rearm (R113 to R115). -/
theorem sampleBit_cases (cfg : ConfigRegs) (d : DecoderState) (b : Bool) :
    (acceptBit cfg.ser d b = none ∧ sampleBit cfg d b = (decoderIdle d, { quietResult with fe := true })) ∨
    ∃ d', acceptBit cfg.ser d b = some d' ∧
      ((d.bit.toNat = cfg.ser.numFrame - 1 ∧ sampleBit cfg d b = (decoderIdle d', emitByte cfg.ser d')) ∨
       (d.bit.toNat ≠ cfg.ser.numFrame - 1 ∧
        sampleBit cfg d b = ({ d' with bit := d.bit + 1#5, off := cfg.spb }, quietResult))) := by
  unfold sampleBit
  cases h : acceptBit cfg.ser d b with
  | none => exact .inl ⟨rfl, rfl⟩
  | some d' =>
    refine .inr ⟨d', rfl, ?_⟩
    by_cases h2 : d.bit.toNat = cfg.ser.numFrame - 1
    · exact .inl ⟨h2, by simp [h2]⟩
    · exact .inr ⟨h2, by simp [h2]⟩

/-- Not armed, the countdown does nothing (R108). -/
theorem countDown_unarmed (cfg : ConfigRegs) (d : DecoderState) (level : Level) (h : d.off.toInt ≤ 0) :
    countDown cfg d level = (d, quietResult) := by
  simp only [countDown]
  rw [if_neg (by omega)]

/-- Armed with at least 2, the countdown only counts (R108). -/
theorem countDown_counting (cfg : ConfigRegs) (d : DecoderState) (level : Level) (h : 2 ≤ d.off.toInt) :
    countDown cfg d level = ({ d with off := d.off - 1#16 }, quietResult) := by
  simp only [countDown]
  rw [if_pos (by omega), if_neg (sub_one_ne_zero _ h)]

/-- Armed with 1, the step is a sampling instant (R108). -/
theorem countDown_instant (cfg : ConfigRegs) (d : DecoderState) (level : Level) (h : d.off = 1#16) :
    countDown cfg d level = sampleBit cfg { d with off := 0#16 } (bitOfLevel cfg.levelT level) := by
  simp [countDown, h]

/-- The countdown part does not touch `last`. -/
theorem countDown_last (cfg : ConfigRegs) (d : DecoderState) (level : Level) :
    (countDown cfg d level).1.last = d.last := by
  unfold countDown
  split
  · dsimp only
    split
    · rcases sampleBit_cases cfg { d with off := d.off - 1#16 } (bitOfLevel cfg.levelT level) with
        ⟨-, h⟩ | ⟨d', hd, ⟨-, h⟩ | ⟨-, h⟩⟩
      · rw [h]; rfl
      · rw [h]; exact (acceptBit_frame hd).2.1
      · rw [h]; exact (acceptBit_frame hd).2.1
    · rfl
  · rfl

/-- The edge test arms with OFFSET (R107). -/
theorem armOnEdge_edge (cfg : ConfigRegs) (d : DecoderState) (level : Level) (h1 : d.bit = 0#5)
    (h2 : level.toInt < cfg.levelT.toInt) (h3 : cfg.levelT.toInt ≤ d.last.toInt) :
    armOnEdge cfg d level = { d with off := cfg.offset } := by
  unfold armOnEdge
  rw [if_pos ⟨h1, h2, h3⟩]

/-- Within a frame, or without a falling edge, the edge test does nothing (R107, R121). -/
theorem armOnEdge_none (cfg : ConfigRegs) (d : DecoderState) (level : Level)
    (h : d.bit ≠ 0#5 ∨ ¬(level.toInt < cfg.levelT.toInt ∧ cfg.levelT.toInt ≤ d.last.toInt)) :
    armOnEdge cfg d level = d := by
  unfold armOnEdge
  rw [if_neg]
  rintro ⟨a, b, c⟩
  rcases h with h | h
  · exact h a
  · exact h ⟨b, c⟩

end Sys2Proof.Machine
end

