-- ==== Sys2Proof/Laws/Ops.lean ====
section
/-! SUPPORT. What the shared operations can do, one lemma for each: answering, refusing, taking an input,
reading and writing registers, resetting (spec/30_encoding.md R72, 60_exceptions.md R154, 20_memory.md R47
to R52, 70_reset_and_hazards.md R172). -/

namespace Sys2Proof.Machine

open Sys2Proof.Laws

/-! ### Responses -/

/-- A response is one more answer, and nothing else. -/
theorem respond_eq (st : Status) (flags : BitVec 12) (data : RegVal) (s : State) :
    respond st flags data s = .next (s.answered (responseWord st flags data)) := rfl

/-- A refusal answers its status and data with no flag, and changes nothing else (R154). -/
theorem raise_eq (st : Status) (data : RegVal) (s : State) :
    raise st data s = .next (s.answered (responseWord st 0#12 data)) := rfl

/-- STATUS of a response word. -/
theorem statusField_responseWord (st : Status) (flags : BitVec 12) (data : RegVal) :
    statusField (responseWord st flags data) = st.code.toNat := by
  have := flags.isLt
  have := data.isLt
  have := st.code.isLt
  simp only [statusField, responseWord, toNat_extract_eq, toNat_append_eq]
  omega

/-- FLAGS of a response word. -/
theorem flagsField_responseWord (st : Status) (flags : BitVec 12) (data : RegVal) :
    flagsField (responseWord st flags data) = flags := by
  have := flags.isLt
  have := data.isLt
  have := st.code.isLt
  apply BitVec.eq_of_toNat_eq
  simp only [flagsField, responseWord, toNat_extract_eq, toNat_append_eq]
  omega

/-- DATA of a response word. -/
theorem dataField_responseWord (st : Status) (flags : BitVec 12) (data : RegVal) :
    dataField (responseWord st flags data) = data := by
  have := flags.isLt
  have := data.isLt
  have := st.code.isLt
  apply BitVec.eq_of_toNat_eq
  simp only [dataField, responseWord, toNat_extract_eq, toNat_append_eq]
  omega

/-- An OK response with no flag is its data. -/
theorem responseWord_ok (data : RegVal) : responseWord .ok 0#12 data = 0#16 ++ data := by
  apply BitVec.eq_of_toNat_eq
  simp [responseWord, Status.code]

/-- Bits 16 to 27 of a response word are its flags. -/
theorem getLsbD_responseWord_flags (st : Status) (flags : BitVec 12) (data : RegVal) (i : Nat) (h1 : 16 ≤ i)
    (h2 : i < 28) : (responseWord st flags data).getLsbD i = flags.getLsbD (i - 16) := by
  simp only [responseWord, BitVec.getLsbD_append]
  rw [if_neg (by omega), if_pos (by omega)]

/-! ### Inputs -/

/-- With no input issued, none is taken. -/
theorem takeInput_nil {s : State} (h : s.inputs = []) : takeInput s = none := by
  simp [takeInput, h]

/-- The oldest input is taken, and nothing else changes. -/
theorem takeInput_cons {s : State} {i : PortInput} {rest : List PortInput} (h : s.inputs = i :: rest) :
    takeInput s = some (i, { s with inputs := rest }) := by
  simp [takeInput, h]

/-- A word placed first is taken next. -/
theorem takeInput_issueFirst (c : CommandWord) (s : State) :
    takeInput (issueFirst c s) = some (.command c, s) := rfl

/-! ### Registers -/

/-- A response changes no register. -/
theorem readReg_answered (s : State) (p : ResponseWord) (r : RegName) :
    readReg (s.answered p) r = readReg s r := by
  cases r with
  | ro r => cases r <;> rfl
  | status => rfl
  | cfg r => cases r <;> rfl

/-- Every register, but none of the port, is read from the block's state alone. -/
theorem readReg_sameBlock {s t : State} (h : SameBlock s t) (r : RegName) : readReg t r = readReg s r := by
  obtain ⟨h1, h2, h3, h4, h5⟩ := h
  cases r with
  | ro r => cases r <;> simp [readReg, readRo, h4, h5]
  | status => simp [readReg, statusWord, h3, h4, h5]
  | cfg r => cases r <;> simp [readReg, readCfg, h1, h2]

/-- The code of the kind of a code. -/
theorem parityCode_parityOfCode : ∀ k : BitVec 2, parityCode (parityOfCode k) = k := by decide

/-- Which code each kind is of (10_state.md R21). -/
theorem parityOfCode_eq_iff : ∀ k : BitVec 2,
    (parityOfCode k = .space ↔ k.toNat = 0) ∧ (parityOfCode k = .mark ↔ k.toNat = 1) ∧
      (parityOfCode k = .even ↔ k.toNat = 2) ∧ (parityOfCode k = .odd ↔ k.toNat = 3) := by decide

/-- The lock holds exactly while a session is enabled (20_memory.md R52). -/
theorem configLocked_iff {s : State} : configLocked s = true ↔ s.ctl.rxEn = true ∨ s.ctl.txEn = true := by
  simp [configLocked]

/-- THRESH as a number (10_state.md R28). -/
theorem toNat_threshOf (c : ConfigRegs) :
    (threshOf c).toNat = c.thresh[0].toNat + 2 ^ 16 * c.thresh[1].toNat + 2 ^ 32 * c.thresh[2].toNat +
      2 ^ 48 * c.thresh[3].toNat := by
  simp only [threshOf, toNat_append_eq]
  omega

/-- The bits of a SERCFG word put together from its fields (10_state.md R21). -/
theorem getLsbD_serWord (a d : BitVec 4) (b : BitVec 2) (c : Bool) (i : Nat) :
    (0#4 ++ a ++ 0#1 ++ b ++ BitVec.ofBool c ++ d).getLsbD i =
      if i < 4 then d.getLsbD i else if i < 5 then c else if i < 7 then b.getLsbD (i - 5)
      else if i < 8 then false else a.getLsbD (i - 8) := by
  simp only [BitVec.getLsbD_append, BitVec.getLsbD_ofBool, BitVec.getLsbD_zero]
  by_cases h : i < 12
  · interval_cases i <;> simp
  · have h2 : a.getLsbD (i - 8) = false := BitVec.getLsbD_of_ge _ _ (by omega)
    rw [h2]
    grind

/-- A CFG register reads back what was written, its reserved bits 0 (20_memory.md R51). -/
theorem readCfg_writeCfg_self (r : CfgReg) (v : RegVal) (s : State) :
    readCfg (writeCfg r v s) r = v &&& fieldMask r := by
  cases r with
  | sercfg =>
    apply BitVec.eq_of_getLsbD_eq
    intro i hi
    simp only [readCfg, writeCfg, serOfVal, parityCode_parityOfCode, fieldMask]
    rw [BitVec.getLsbD_and]
    refine (getLsbD_serWord _ _ _ _ i).trans ?_
    interval_cases i <;> simp
  | chancfg =>
    apply BitVec.eq_of_getLsbD_eq
    intro i hi
    simp only [readCfg, writeCfg, fieldMask]
    rw [BitVec.getLsbD_and]
    refine (BitVec.getLsbD_append (x := 0#14 ++ BitVec.ofBool _) (y := BitVec.ofBool _)).trans ?_
    rw [BitVec.getLsbD_append]
    interval_cases i <;> simp
  | _ =>
    apply BitVec.eq_of_getLsbD_eq
    intro i hi
    simp only [readCfg, writeCfg, fieldMask]
    interval_cases i <;> simp

/-- A write of one CFG register leaves every other as it was (20_memory.md R50). -/
theorem readCfg_writeCfg_of_ne {r r' : CfgReg} (v : RegVal) (s : State) (h : r' ≠ r) :
    readCfg (writeCfg r v s) r' = readCfg s r' := by
  cases r <;> cases r' <;> simp [readCfg, writeCfg] at h ⊢
  all_goals (rw [Vector.getElem_set_ne]; omega)

/-- STATUS is not a CFG register: its write leaves them all as they were. -/
theorem readCfg_writeStatus (v : RegVal) (s : State) (r : CfgReg) :
    readCfg (writeStatus v s) r = readCfg s r := by cases r <;> rfl

/-! ### Reset -/

/-- RESET gives the reset state's block and keeps the port (log entry 4). -/
theorem resetBlock_sameBlock (s : State) : SameBlock State.reset (resetBlock s) := ⟨rfl, rfl, rfl, rfl, rfl⟩

end Sys2Proof.Machine
end

