-- ==== Sys2Proof/Laws/Commands.lean ====
section
/-! SUPPORT. What each command with several outcomes can do: its outcomes as a list of cases, each with the
next state and the response. The proofs about runs cite these and unfold no meaning. -/

namespace Sys2Proof.Machine

open Sys2Proof.Laws

/-- Every outcome of RDREG (spec/47_control.md R146). -/
theorem execRdreg_cases {reg : RegNum} {s t : State} (h : execRdreg reg s = .next t) :
    (regOf reg = none ∧ t = s.answered (responseWord .badreg 0#12 0#16)) ∨
    ∃ r, regOf reg = some r ∧ t = s.answered (responseWord .ok 0#12 (readReg s r)) := by
  unfold execRdreg at h
  split at h
  · rename_i hr
    rw [raise_eq] at h
    injection h with h
    exact .inl ⟨hr, h.symm⟩
  · rename_i r hr
    rw [respond_eq] at h
    injection h with h
    exact .inr ⟨r, hr, h.symm⟩

/-- Every outcome of WRREG (spec/47_control.md R147). -/
theorem execWrreg_cases {reg : RegNum} {val : RegVal} {s t : State} (h : execWrreg reg val s = .next t) :
    (regOf reg = none ∧ t = s.answered (responseWord .badreg 0#12 0#16)) ∨
    (∃ r, regOf reg = some (.ro r) ∧ t = s.answered (responseWord .readonly 0#12 0#16)) ∨
    (regOf reg = some .status ∧ t = (writeStatus val s).answered (responseWord .ok 0#12 0#16)) ∨
    (∃ r, regOf reg = some (.cfg r) ∧ configLocked s = true ∧
      t = s.answered (responseWord .locked 0#12 0#16)) ∨
    ∃ r, regOf reg = some (.cfg r) ∧ configLocked s = false ∧
      t = (writeCfg r val s).answered (responseWord .ok 0#12 0#16) := by
  unfold execWrreg at h
  split at h
  · rename_i hr
    injection h with h
    exact .inl ⟨hr, h.symm⟩
  · rename_i r hr
    injection h with h
    exact .inr (.inl ⟨r, hr, h.symm⟩)
  · rename_i hr
    injection h with h
    exact .inr (.inr (.inl ⟨hr, h.symm⟩))
  · rename_i r hr
    split at h
    · rename_i hl
      injection h with h
      exact .inr (.inr (.inr (.inl ⟨r, hr, hl, h.symm⟩)))
    · rename_i hl
      injection h with h
      exact .inr (.inr (.inr (.inr ⟨r, hr, by simpa using hl, h.symm⟩)))

/-- Every outcome of START (spec/47_control.md R148). -/
theorem execStart_cases {rx tx : Bool} {s t : State} (h : execStart rx tx s = .next t) :
    (checkMask rx tx s.cfg ≠ 0#16 ∧
      t = s.answered (responseWord .config 0#12 (checkMask rx tx s.cfg))) ∨
    (checkMask rx tx s.cfg = 0#16 ∧ t = (openSessions rx tx s).answered (responseWord .ok 0#12 0#16)) := by
  unfold execStart at h
  split at h
  · rename_i hm
    injection h with h
    exact .inl ⟨hm, h.symm⟩
  · rename_i hm
    injection h with h
    exact .inr ⟨not_not.1 hm, h.symm⟩

/-- Every outcome of RX_SAMPLE (spec/44_decoder.md R117): no session, not primed, low signal, or the
decoder advances. -/
theorem execRxSample_cases {sample : Sample} {s t : State} (h : execRxSample sample s = .next t) :
    (s.ctl.rxEn = false ∧ t = s.answered (responseWord .disabled 0#12 0#16)) ∨
    (s.ctl.rxEn = true ∧ ∃ rx, rx = filterAndEnergy s.cfg s.tab s.rx (inputOf sample) ∧
      ((rx.es.space.primed = false ∧
        t = State.answered { s with rx := rx } (responseWord .ok (flagNP true) 0#16)) ∨
       (rx.es.space.primed = true ∧ lowSignal s.cfg rx = true ∧
        t = State.answered { s with rx := rx, ctl := { s.ctl with lsSeen := true } }
          (responseWord .ok (flagLS true) 0#16)) ∨
       (rx.es.space.primed = true ∧ lowSignal s.cfg rx = false ∧
        ∃ d, d = decodeLevel s.cfg rx.dec (levelOf s.cfg rx) ∧
          t = State.answered
            { s with
              rx := { rx with cur := levelOf s.cfg rx, dec := d.1 }
              ctl := { s.ctl with feSeen := s.ctl.feSeen || d.2.fe, peSeen := s.ctl.peSeen || d.2.pe } }
            (responseWord .ok (decodeFlags d.2) (d.2.out.setWidth 16))))) := by
  unfold execRxSample at h
  split at h
  · rename_i he
    injection h with h
    exact .inl ⟨by simpa using he, h.symm⟩
  · rename_i he
    refine .inr ⟨by simpa using he, _, rfl, ?_⟩
    dsimp only at h
    split at h
    · rename_i hp
      injection h with h
      exact .inl ⟨by simpa using hp, h.symm⟩
    · rename_i hp
      split at h
      · rename_i hl
        injection h with h
        exact .inr (.inl ⟨by simpa using hp, hl, h.symm⟩)
      · rename_i hl
        injection h with h
        exact .inr (.inr ⟨by simpa using hp, by simpa using hl, _, rfl, h.symm⟩)

/-- Every outcome of TX_PUSH (spec/46_transmit.md R135): no session, slot full, or the byte is queued. -/
theorem execTxPush_cases {byte : Byte} {s t : State} (h : execTxPush byte s = .next t) :
    (s.ctl.txEn = false ∧ t = s.answered (responseWord .disabled 0#12 0#16)) ∨
    (s.ctl.txEn = true ∧ s.tx.byte.full = true ∧
      t = State.answered { s with ctl := { s.ctl with ovrSeen := true } }
        (responseWord .overrun 0#12 0#16)) ∨
    (s.ctl.txEn = true ∧ s.tx.byte.full = false ∧ ∃ p, p = pushByte s.cfg byte s.tx.byte ∧
      t = State.answered { s with tx := { s.tx with byte := p.1 } }
        (responseWord .ok (flagPromoted p.2) 0#16)) := by
  unfold execTxPush at h
  split at h
  · rename_i he
    injection h with h
    exact .inl ⟨by simpa using he, h.symm⟩
  · rename_i he
    split at h
    · rename_i hf
      injection h with h
      exact .inr (.inl ⟨by simpa using he, hf, h.symm⟩)
    · rename_i hf
      injection h with h
      exact .inr (.inr ⟨by simpa using he, by simpa using hf, _, rfl, h.symm⟩)

/-- Every outcome of TX_SAMPLE (spec/46_transmit.md R138). -/
theorem execTxSample_cases {s t : State} (h : execTxSample s = .next t) :
    (s.ctl.txEn = false ∧ t = s.answered (responseWord .disabled 0#12 0#16)) ∨
    (s.ctl.txEn = true ∧ ∃ k, k = bitBoundary s.cfg s.tx.byte ∧
      t = State.answered { s with tx := afterSample s.cfg s.tab k s.tx.phase }
        (responseWord .ok (sampleFlags k) (BitVec.ofInt 16 (synthSample s.tab.lut s.tx.phase)))) := by
  unfold execTxSample at h
  split at h
  · rename_i he
    injection h with h
    exact .inl ⟨by simpa using he, h.symm⟩
  · rename_i he
    injection h with h
    exact .inr ⟨by simpa using he, _, rfl, h.symm⟩

/-- The block rejects an illegal word by its response alone (spec/60_exceptions.md R158). -/
theorem runCommand_illegal {c : CommandWord} {e : DecodeError} (h : decode c = .error e) (s : State) :
    runCommand c s = .next (s.answered (responseWord .illegal 0#12 0#16)) := by
  simp only [runCommand, h, raise_eq]

/-- The block runs a legal word as its command. -/
theorem runCommand_legal {c : CommandWord} {i : Instr} (h : decode c = .ok i) (s : State) :
    runCommand c s = exec i s := by
  simp only [runCommand, h]

/-- What DECODE reports: at most one of a byte and a framing error; a byte of 0 unless one is emitted; the
parity results only with a byte and P = 1 (spec/44_decoder.md R111, R120). -/
theorem countDown_result (cfg : ConfigRegs) (d : DecoderState) (level : Level) :
    ((countDown cfg d level).2.bv = true → (countDown cfg d level).2.fe = false) ∧
    ((countDown cfg d level).2.bv = false → (countDown cfg d level).2.out = 0#8) ∧
    ((countDown cfg d level).2.pe = true ∨ (countDown cfg d level).2.rp = true →
      (countDown cfg d level).2.bv = true ∧ cfg.ser.parityBits = true) := by
  unfold countDown
  split
  · dsimp only
    split
    · rcases sampleBit_cases cfg { d with off := d.off - 1#16 } (bitOfLevel cfg.levelT level) with
        ⟨-, h⟩ | ⟨d', -, ⟨-, h⟩ | ⟨-, h⟩⟩ <;> rw [h] <;> simp [quietResult, emitByte]
      rintro (⟨h1, -⟩ | ⟨h1, -⟩) <;> exact h1
    · simp [quietResult]
  · simp [quietResult]

end Sys2Proof.Machine
end

