-- ==== Sys2Proof/Laws/PerInstr.lean ====
section
/-! SUPPORT. What holds of every command as syntax, one lemma for each constructor of Instr: its encoding
stands in its own row of the opcode map (spec/30_encoding.md R74). -/

namespace Sys2Proof.Laws.EncodingInRow

/-- The command's row is a row of the opcode map, and its encoding matches the row. -/
def Statement (i : Instr) : Prop :=
  i.row ∈ opcodeTable ∧ encode i &&& i.row.mask = i.row.pattern

theorem nop : Statement .nop := ⟨by decide, by decide⟩

theorem srst : Statement .srst := ⟨by decide, by decide⟩

theorem rdreg (reg : RegNum) : Statement (.rdreg reg) := by
  refine ⟨by simp [Instr.row, opcodeTable], ?_⟩
  revert reg
  decide

theorem wrreg (reg : RegNum) (val : RegVal) : Statement (.wrreg reg val) := by
  refine ⟨by simp [Instr.row, opcodeTable], ?_⟩
  change (0x3#4 ++ 0#4 ++ reg ++ val) &&& (0xF#4 ++ 0xF#4 ++ 0#8 ++ 0#16) = 0x3#4 ++ 0#4 ++ 0#8 ++ 0#16
  simp only [BitVec.and_append, BitVec.and_zero]
  rfl

theorem start (rx tx : Bool) : Statement (.start rx tx) := by
  cases rx <;> cases tx <;> exact ⟨by decide, by decide⟩

theorem stop (rx tx : Bool) : Statement (.stop rx tx) := by
  cases rx <;> cases tx <;> exact ⟨by decide, by decide⟩

theorem rxSample (sample : Sample) : Statement (.rxSample sample) := by
  refine ⟨by simp [Instr.row, opcodeTable], ?_⟩
  change (0x6#4 ++ 0#12 ++ sample) &&& (0xF#4 ++ 0xFFF#12 ++ 0#16) = 0x6#4 ++ 0#12 ++ 0#16
  simp only [BitVec.and_append, BitVec.and_zero]
  rfl

theorem txPush (byte : Byte) : Statement (.txPush byte) := by
  refine ⟨by simp [Instr.row, opcodeTable], ?_⟩
  revert byte
  decide

theorem txSample : Statement .txSample := ⟨by decide, by decide⟩

end Sys2Proof.Laws.EncodingInRow
end

