-- ==== Sys2Proof/Laws/Pipelines.lean ====
section
/-! SUPPORT. The cases of the pipelines' internal operations: the history slots of FILTER, the square of
ENERGY, the exact counter of DISCRIMINATE, the table index of SYNTH, and the parts of TICK and of the bit
boundary (spec/41_filter_bank.md, 42_energy.md, 43_discriminator.md, 45_synthesizer.md, 46_transmit.md). -/

namespace Sys2Proof.Machine

open Sys2Proof.Laws

/-! ### FILTER -/

/-- The two history slots are the two other slots, and each is the other's neighbour (R84). -/
theorem history_slots :
    ∀ p : Fin 3, lastSlot (nextSlot p) = p ∧ nextSlot (nextSlot p) = lastSlot p ∧ lastSlot p ≠ p ∧
      nextSlot p ≠ p := by decide

/-- The slot FILTER wrote last, as a number (R84). -/
theorem lastSlot_val : ∀ p : Fin 3, (lastSlot p).val = (p.val + 2) % 3 := by decide

/-- The slot FILTER writes next, as a number (R84). -/
theorem nextSlot_val : ∀ p : Fin 3, (nextSlot p).val = (p.val + 1) % 3 := by decide

/-- The stored output is the exact sum wrapped to 32 bits (R86). -/
theorem toInt_ofInt_32 (v : Int) : (BitVec.ofInt 32 v).toInt = wrap32 v := by
  rw [BitVec.toInt_ofInt, wrap32, Int.bmod_def]
  norm_num
  split <;> omega

/-- The Q14 product is the floor of the exact product by 2^14 (00_scope.md R9). -/
theorem mulq_eq (c v : Int) : mulq c v = (c * v) / 2 ^ 14 := rfl

/-! ### ENERGY -/

/-- The stored square is exact (R91). -/
theorem toNat_squareOf (y : FiltWord) : (squareOf y).toNat = (y.toInt * y.toInt).toNat := by
  have h1 := BitVec.le_toInt y
  have h2 := BitVec.toInt_lt (x := y)
  norm_num at h1 h2
  have h3 : y.toInt * y.toInt ≤ 2 ^ 62 := by nlinarith
  have h4 : 0 ≤ y.toInt * y.toInt := mul_self_nonneg _
  rw [squareOf, BitVec.toNat_ofInt]
  congr 1
  apply Int.emod_eq_of_lt h4
  push_cast
  omega

/-! ### DISCRIMINATE -/

/-- The clamped counter always fits its 16 bits, so nothing is lost (R99). -/
theorem toInt_discriminate (h : BitVec 15) (cur : Level) (a b : Energy) :
    (discriminate h cur a b).toInt = clamp (cur.toInt + sgn3 a.toNat b.toNat) (-(h.toNat : Int)) h.toNat := by
  have hh := h.isLt
  rw [discriminate]
  apply toInt_ofInt_of_fits _ (by norm_num) <;> unfold clamp <;> norm_num <;> omega

/-! ### SYNTH -/

/-- The index is the phase divided into 256 steps (R125). -/
theorem toNat_synthIndex (phase : Phase) : (synthIndex phase).toNat = phase.toNat / 256 := by
  have := phase.isLt
  simp only [synthIndex, toNat_extract_eq]
  omega

/-- The quarter-wave index, ascending or descending (R125). -/
theorem toNat_quarterIndex :
    ∀ idx : BitVec 8, (quarterIndex idx).toNat =
      if idx.toNat / 64 % 2 = 0 then idx.toNat % 64 else 63 - idx.toNat % 64 := by decide

/-- The sign bit of an index: the second half cycle (R125). -/
theorem getLsbD_7_index : ∀ idx : BitVec 8, idx.getLsbD 7 = decide (128 ≤ idx.toNat) := by decide

/-! ### TICK and the bit boundary -/

/-- Idle, nothing is shifted (R137). -/
theorem shiftOut_idle {b : ByteState} (h : b.rem = 0#5) : shiftOut b = b := by
  simp [shiftOut, h]

/-- Busy, one bit is shifted out (R137). -/
theorem shiftOut_busy {b : ByteState} (h : b.rem ≠ 0#5) :
    shiftOut b = { b with cur := b.cur >>> 1, rem := b.rem - 1#5 } := by
  simp only [shiftOut, (toNat_pos_iff b.rem).2 h, if_true]

/-- A tick promotes exactly when the shift has left the word empty and a byte is pending (R137). -/
theorem tick_promotes {ser : SerCfg} {b : ByteState} (h1 : (shiftOut b).rem = 0#5)
    (h2 : (shiftOut b).full = true) : tick ser b = (promote ser (shiftOut b), true) := by
  simp only [tick]
  rw [if_pos ⟨by rw [h1]; rfl, h2⟩]

/-- A tick that does not promote sets the tone of the bit now sent, mark when idle (R134, R137). -/
theorem tick_continues {ser : SerCfg} {b : ByteState}
    (h : (shiftOut b).rem ≠ 0#5 ∨ (shiftOut b).full = false) :
    tick ser b = ({ shiftOut b with tone := toneOf (shiftOut b) }, false) := by
  simp only [tick]
  rw [if_neg]
  rintro ⟨h1, h2⟩
  rcases h with h | h
  · exact h ((toNat_eq_zero_iff _).1 h1)
  · rw [h] at h2
    cases h2

/-- At timer 0 a sample ticks and reloads the timer (R138). -/
theorem bitBoundary_tick {cfg : ConfigRegs} {b : ByteState} (h : b.timer = 0#16) :
    bitBoundary cfg b =
      { byte := { (tick cfg.ser b).1 with timer := cfg.spb }, tick := true, promoted := (tick cfg.ser b).2 } := by
  simp only [bitBoundary, h, if_true]

/-- Within a bit period a sample leaves the transmit state to its countdown (R138). -/
theorem bitBoundary_hold {cfg : ConfigRegs} {b : ByteState} (h : b.timer ≠ 0#16) :
    bitBoundary cfg b = { byte := b, tick := false, promoted := false } := by
  simp only [bitBoundary, h, if_false]

/-- The five flags of TX_SAMPLE, from FULL down to PROMOTED (30_encoding.md R73). -/
theorem sampleFlags_eq (k : Boundary) :
    sampleFlags k = 0#7 ++ BitVec.ofBool k.byte.full ++ BitVec.ofBool (txBusy k.byte) ++
      BitVec.ofBool k.byte.tone ++ BitVec.ofBool k.tick ++ BitVec.ofBool k.promoted := by
  have h : ∀ a b c d e : Bool,
      flagPromoted a ||| flagTick b ||| flagTone c ||| flagBusy d ||| flagFull e =
        0#7 ++ BitVec.ofBool e ++ BitVec.ofBool d ++ BitVec.ofBool c ++ BitVec.ofBool b ++
          BitVec.ofBool a := by decide
  exact h _ _ _ _ _

/-- The flags of a sample that reached DECODE (30_encoding.md R73). -/
theorem decodeFlags_eq (r : DecodeResult) :
    decodeFlags r = 0#6 ++ BitVec.ofBool r.rp ++ BitVec.ofBool r.pe ++ 0#2 ++ BitVec.ofBool r.fe ++
      BitVec.ofBool r.bv := by
  have h : ∀ a b c d : Bool, flagBV a ||| flagFE b ||| flagPE c ||| flagRP d =
      0#6 ++ BitVec.ofBool d ++ BitVec.ofBool c ++ 0#2 ++ BitVec.ofBool b ++ BitVec.ofBool a := by decide
  exact h _ _ _ _

end Sys2Proof.Machine
end

