-- ==== Sys2Proof/Laws/Runs.lean ====
section
/-! SUPPORT. Runs of commands, one command at a time. -/

namespace Sys2Proof.Machine

/-- A command that completes gives its next state. -/
theorem afterCommand_next {i : Instr} {s t : State} (h : exec i s = .next t) : afterCommand i s = t := by
  simp only [afterCommand, h]

/-- No command leaves the state as it was. -/
theorem afterCommands_nil (s : State) : afterCommands [] s = s := rfl

/-- The first command of a run is run first. -/
theorem afterCommands_cons (i : Instr) (is : List Instr) (s : State) :
    afterCommands (i :: is) s = afterCommands is (afterCommand i s) := rfl

/-- A run of two lists is the one after the other. -/
theorem afterCommands_append (is js : List Instr) (s : State) :
    afterCommands (is ++ js) s = afterCommands js (afterCommands is s) := by
  simp only [afterCommands, List.foldl_append]

/-- One more sample at the end of a run of samples. -/
theorem afterCommands_replicate_succ (n : Nat) (i : Instr) (s : State) :
    afterCommands (List.replicate (n + 1) i) s = afterCommand i (afterCommands (List.replicate n i) s) := by
  rw [List.replicate_succ', afterCommands_append]
  rfl

/-- The decoder's next step on a sequence of levels. -/
theorem decoderAfter_succ (cfg : ConfigRegs) (d : DecoderState) (level : Nat → Level) (n : Nat) :
    decoderAfter cfg d level (n + 1) = (decodeLevel cfg (decoderAfter cfg d level n) (level (n + 1))).1 := rfl

/-- One more output at the end of a run of the estimator. -/
theorem energyRun_append (w : Nat) (ys : List FiltWord) :
    ∀ (es : EnergyState) (y : FiltWord), energyRun w es (ys ++ [y]) = energyStep w (energyRun w es ys) y := by
  induction ys with
  | nil => intros; rfl
  | cons x xs ih => intro es y; exact ih (energyStep w es x) y

end Sys2Proof.Machine
end

