-- ==== Sys2Proof/Tests/Slice0.lean ====
section
/-! SUPPORT. Tests whose expected values stand in spec/95_test_vectors.md or in the rule named, the
ill-formed words each check refuses, one written word for every command, and one witness for the hypotheses
of every statement that has any. -/

namespace Sys2Proof.Tests

open Sys2Proof Sys2Proof.Machine

/-! ### Small states -/

/-- D = 1, P = 0, ST = 1 (N_FRAME = 3), WINDOW = 1, HYST = 1, OFFSET = 2, SPB = 3. -/
def smallCfg : ConfigRegs :=
  { State.reset.cfg with
    ser := { dataBits := 1#4, parityBits := false, parityKind := .space, stopBits := 1#4 }
    window := 1#7
    hyst := 1#15
    offset := 2#16
    spb := 3#16 }

/-- The small configuration with no session enabled. -/
def closed : State :=
  { State.reset with cfg := smallCfg }

/-- The small configuration with both sessions just opened. -/
def opened : State :=
  openSessions true true closed

/-- A state with one command word issued. -/
def issued (c : CommandWord) (s : State) : State :=
  { s with inputs := [.command c] }

/-- A state with another transmit state. -/
def withByte (b : ByteState) (s : State) : State :=
  { s with tx := { s.tx with byte := b } }

/-- Busy with three bits left, the timer at 0. -/
def busyByte : ByteState :=
  { cur := 0x6#17, nxt := 0x4#17, rem := 3#5, full := false, tone := false, timer := 0#16 }

/-- The response to a command word, run as the next input. -/
def reply (c : CommandWord) (s : State) : Option ResponseWord :=
  match step (issued c s) with
  | .next t => t.responses.getLast?
  | .fault _ => none
  | .refused _ => none

/-! ### Well-formedness: each check refuses a word (30_encoding.md R75, R76; V-C2, V-C3, V-R2, V-T20) -/

theorem test_reserved_opcodes_refused :
    opcodeAssigned 0x90000000#32 = false ∧ opcodeAssigned 0xF0000000#32 = false ∧
      decode 0x90000000#32 = .error (.reservedOpcode 0x9#4) := by decide

theorem test_format_n_reserved_refused :
    reservedClear 0x00000001#32 = false ∧ decode 0x10000001#32 = .error (.reservedField .n) ∧
      wellFormedWord 0x80000001#32 = false := by decide

theorem test_format_r_reserved_refused :
    reservedClear 0x21000000#32 = false ∧ decode 0x2000FFFF#32 = .error (.reservedField .r) := by decide

theorem test_format_w_reserved_refused :
    reservedClear 0x31070001#32 = false ∧ decode 0x31070001#32 = .error (.reservedField .w) := by decide

theorem test_format_e_reserved_refused :
    reservedClear 0x40000004#32 = false ∧ decode 0x50000004#32 = .error (.reservedField .e) := by decide

theorem test_format_s_reserved_refused :
    reservedClear 0x60010000#32 = false ∧ decode 0x60010000#32 = .error (.reservedField .s) := by decide

theorem test_format_b_reserved_refused :
    reservedClear 0x70000100#32 = false ∧ decode 0x70000100#32 = .error (.reservedField .b) := by decide

theorem test_bad_length_refused : decodeBytes [0#8, 0#8, 0#8] = .error (.badLength 3) := by decide

theorem test_wellformed_accepted :
    (opcodeTable.all fun row => wellFormedWord row.pattern) = true ∧ wellFormedWord 0x40000003#32 = true ∧
      wellFormedWord 0x30FFFFFF#32 = true := by decide

/-! ### Decoding: words written out from the formats of R65 to R70 -/

theorem test_decode_nop : decode 0b0000_0000000000000000000000000000#32 = .ok .nop := by decide
theorem test_decode_srst : decode 0b0001_0000000000000000000000000000#32 = .ok .srst := by decide
theorem test_decode_rdreg : decode 0b0010_0000_00110111_0000000000000000#32 = .ok (.rdreg 0x37#8) := by decide
theorem test_decode_wrreg :
    decode 0b0011_0000_00010001_1100000000000000#32 = .ok (.wrreg 0x11#8 0xC000#16) := by decide
theorem test_decode_start_rx : decode 0b0100_00000000000000000000000000_0_1#32 = .ok (.start true false) := by
  decide
theorem test_decode_stop_tx : decode 0b0101_00000000000000000000000000_1_0#32 = .ok (.stop false true) := by
  decide
theorem test_decode_rxSample : decode 0b0110_000000000000_1111110000011000#32 = .ok (.rxSample 0xFC18#16) := by
  decide
theorem test_decode_txPush : decode 0b0111_00000000000000000000_01001011#32 = .ok (.txPush 0x4B#8) := by decide
theorem test_decode_txSample : decode 0b1000_0000000000000000000000000000#32 = .ok .txSample := by decide

/-- The first byte on a byte-wide transport is the least significant (20_memory.md R53). -/
theorem test_decode_bytes : decodeBytes [0x08#8, 0x01#8, 0x04#8, 0x30#8] = .ok (.wrreg 0x04#8 0x0108#16) := by
  decide

theorem test_decodeTableWord : decodeTableWord 32 0x7000004B = some (.txPush 0x4B#8) := by decide

/-! ### The commands, one step each -/

/-- V-C1. -/
theorem test_nop : reply 0x00000000#32 opened = some 0x00000000#32 := by decide

/-- V-C21: after SRST, DEC_OFF reads -1 and no session is enabled. -/
theorem test_srst :
    reply 0x10000000#32 opened = some 0x00000000#32 ∧
      reply 0x20200000#32 (afterCommand .srst opened) = some 0x0000FFFF#32 ∧
      reply 0x20020000#32 (afterCommand .srst opened) = some 0x00000000#32 := by decide

/-- V-C4, V-C5. -/
theorem test_rdreg :
    reply 0x20000000#32 opened = some 0x0000B103#32 ∧ reply 0x20030000#32 opened = some 0x20000000#32 := by
  decide

/-- V-C10, V-C11: the reserved bits of a written value are dropped. -/
theorem test_wrreg_masks :
    reply 0x20040000#32 (afterCommand (.wrreg 0x04#8 0xFFFF#16) closed) = some 0x00000F7F#32 ∧
      reply 0x20060000#32 (afterCommand (.wrreg 0x06#8 0xFFFF#16) closed) = some 0x0000007F#32 ∧
      reply 0x20400000#32 (afterCommand (.wrreg 0x40#8 0xFFFF#16) closed) = some 0x00007FFF#32 := by decide

/-- V-C5 to V-C8: the refusals of WRREG in their order of priority. -/
theorem test_wrreg_refusals :
    reply 0x30FF0000#32 opened = some 0x20000000#32 ∧ reply 0x30250000#32 closed = some 0x30000000#32 ∧
      reply 0x30000000#32 opened = some 0x30000000#32 ∧ reply 0x30070001#32 opened = some 0x40000000#32 := by
  decide

/-- V-C14, V-C15: CONFIG with the mask of the failed checks. -/
theorem test_start_config :
    reply 0x40000002#32 State.reset = some 0x50000023#32 ∧
      reply 0x40000001#32 State.reset = some 0x5000003B#32 := by decide

/-- START rx,tx with a legal configuration opens both: STATUS reads RX_EN and TX_EN. -/
theorem test_start_opens :
    reply 0x40000003#32 closed = some 0x00000000#32 ∧
      reply 0x20020000#32 (afterCommand (.start true true) closed) = some 0x00000003#32 := by decide

/-- V-C22. -/
theorem test_stop :
    reply 0x50000003#32 opened = some 0x00000000#32 ∧
      reply 0x20020000#32 (afterCommand (.stop true false) opened) = some 0x00000002#32 := by decide

/-- V-R1, V-R3. -/
theorem test_rxSample_gates :
    reply 0x60000005#32 closed = some 0x60000000#32 ∧
      reply 0x60000005#32 { opened with cfg := { smallCfg with window := 2#7 } } = some 0x00080000#32 := by
  decide

/-- V-R7: the sample at which a start bit reads 1 reports FE. -/
theorem test_rxSample_framing_error :
    reply 0x60000000#32
      { opened with rx := { opened.rx with dec := { opened.rx.dec with off := 1#16 } } } =
      some 0x00020000#32 := by decide

/-- V-T14, V-T16: the state before is idle, then full. -/
theorem test_txPush :
    reply 0x7000004B#32 opened = some 0x00010000#32 ∧
      reply 0x7000004B#32 (withByte { busyByte with full := true } opened) = some 0x70000000#32 := by decide

/-- V-T13, V-T18: the first sample of a session, and the gapless pick-up. -/
theorem test_txSample :
    reply 0x80000000#32 opened = some 0x00060000#32 ∧
      reply 0x80000000#32 (withByte { busyByte with rem := 1#5, full := true } opened) =
        some 0x000B0000#32 := by decide

/-- A step with no input holds the state, and the reset input gives no response (60_exceptions.md R168,
70_reset_and_hazards.md R172). -/
theorem test_step_waits :
    step closed = .next closed ∧
      step { closed with inputs := [.resetInput] } = .next State.reset := ⟨rfl, rfl⟩

/-! ### The internal operations -/

/-- V-F2 and V-F3. -/
theorem test_filter :
    (filterRun 8192 (-16384) 0 FilterState.reset [1000#32, 1000#32, 1000#32, -1000#32]).map BitVec.toInt =
        [500, 0, 0, -1000] ∧
      (filterRun 1 0 0 FilterState.reset [-1#32, 1#32, -1#32]).map BitVec.toInt = [-1, 0, -2] := by decide

/-- V-F7. -/
theorem test_filter_extreme :
    (filterRun (-32768) 0 0 FilterState.reset [-32768#32, 0#32, 0#32]).map BitVec.toInt = [65536, 0, 65536] := by
  decide

/-- V-E1. -/
theorem test_energy :
    (energyRun 3 EnergyState.reset [1#32, 2#32]).primed = false ∧
      (energyRun 3 EnergyState.reset [1#32, 2#32, 3#32]).primed = true ∧
      (energyRun 3 EnergyState.reset [1#32, 2#32, 3#32, 4#32]).sum = 29#64 := by decide

/-- V-D1, V-D5. -/
theorem test_discriminate :
    (levelRun 2#15 0#16 [(2#64, 1#64), (2#64, 1#64), (2#64, 1#64), (1#64, 2#64)]).toInt = 1 ∧
      (discriminate 1#15 0#16 0xFFFFFFFFFFFFFFFF#64 0#64).toInt = 1 := by decide

/-- V-B4: a bad stop bit and a new edge in one step. -/
theorem test_decode_level :
    decodeLevel { smallCfg with offset := 1#16, spb := 1#16 }
      { off := 1#16, last := 1#16, bit := 2#5, byte := 1#8, par := false } 0xFFFF#16 =
      ({ off := 1#16, last := 0xFFFF#16, bit := 0#5, byte := 0#8, par := false },
        { bv := false, out := 0#8, fe := true, pe := false, rp := false }) := by decide

/-- V-S3, V-S5. -/
theorem test_synth :
    synthSample (Vector.replicate 64 1#15) 0xFF80#16 = -1 ∧
      synthSample (Vector.replicate 64 0x7FFF#15) 0x0000#16 = 32767 ∧
      synthSample (Vector.replicate 64 0x7FFF#15) 0x8000#16 = -32767 := by decide

/-- V-T1, V-T3, V-T7. -/
theorem test_frame :
    frameWord { dataBits := 8#4, parityBits := false, parityKind := .space, stopBits := 1#4 } 0x4B#8 = 0x296#17 ∧
      frameWord { dataBits := 7#4, parityBits := true, parityKind := .odd, stopBits := 1#4 } 0x4B#8 = 0x396#17 ∧
      frameWord { dataBits := 8#4, parityBits := true, parityKind := .mark, stopBits := 7#4 } 0xFF#8 =
        0x1FFFE#17 := by decide

/-- R78, R79: lines of the programs of 95_test_vectors.md. -/
theorem test_assemble :
    assembleLine "WRREG COEF(0,1), -16384 ; B1".toList = some [.wrreg 0x11#8 0xC000#16] ∧
      assembleLine "START rx,tx".toList = some [.start true true] ∧
      assembleLine "RX_SAMPLE -1000".toList = some [.rxSample 0xFC18#16] ∧
      assembleLine "CLRSTAT".toList = some [.wrreg 0x02#8 0x0F00#16] ∧
      assembleLine "TX_PUSH 256".toList = none := by decide

/-! ### Witnesses: the hypotheses of each statement are met together -/

theorem witness_DecodeAndEncodeAgree : decode 0x3011C000#32 = .ok (.wrreg 0x11#8 0xC000#16) := by decide

theorem witness_DecodeFollowsOpcodeMap :
    ∃ row ∈ opcodeTable, 0x70000000#32 &&& row.mask = row.pattern := by decide

theorem witness_IllegalWordChangesNothing :
    (9 ≤ (BitVec.extractLsb' 28 4 0x90000000#32).toNat ∧ 9 ≤ (BitVec.extractLsb' 28 4 0xF0000000#32).toNat) ∧
      (formatOf (BitVec.extractLsb' 28 4 0x80000001#32) = some .n ∧
        0x80000001#32 &&& Format.reserved .n ≠ 0#32) ∧
      (issued 0xF0000000#32 opened).inputs = .command 0xF0000000#32 :: [] :=
  ⟨by decide, ⟨rfl, by decide⟩, rfl⟩

theorem witness_StepRunsDecodedCommand :
    (issued 0x7000004B#32 opened).inputs = .command 0x7000004B#32 :: [] ∧
      decode 0x7000004B#32 = .ok (.txPush 0x4B#8) := by decide

theorem witness_StepWaitsOrTakesReset :
    opened.inputs = [] ∧
      ({ opened with inputs := [.resetInput, .command 0#32] } : State).inputs =
        .resetInput :: [.command 0#32] := by decide

theorem witness_EveryCommandAnswersOnce :
    (issued 0x70000000#32 (withByte { busyByte with full := true } opened)).inputs =
      .command 0x70000000#32 :: [] := by decide

theorem witness_StepDependsOnBlockAlone :
    SameBlock (issued 0#32 opened) { issued 0#32 opened with responses := [5#32] } ∧
      (issued 0#32 opened).inputs = .command 0#32 :: [] := ⟨⟨rfl, rfl, rfl, rfl, rfl⟩, rfl⟩

theorem witness_CommandSequenceRunsToItsEnd :
    ({ opened with inputs := [.command 0x80000000#32, .command 0x90000000#32] } : State).inputs =
      [0x80000000#32, 0x90000000#32].map .command := by decide

theorem witness_ResetLeavesNothingEnabled :
    ControlCleared State.reset.ctl ∧ RxInitial State.reset.rx ∧ TxCleared false State.reset.tx ∧
      readCfg State.reset .sercfg = 0#16 ∧ (∀ j, readCfg State.reset (.thresh j) = 0#16) ∧
      ∀ i, readCfg State.reset (.lut i) = 0#16 := by decide

theorem witness_RegisterMapByNumber :
    (0x20 ≤ (0x20#8).toNat ∧ (0x20#8).toNat ≤ 0x3C) ∧ 0x20 ≤ (0x3C#8).toNat ∧ (0x3C#8).toNat ≤ 0x3C := by
  decide

theorem witness_RdregCompletes :
    regOf 0x02#8 = some .status ∧ regOf 0x3C#8 = some (.ro .fltPtr) ∧ regOf 0x7F#8 = some (.cfg (.lut 63)) := by
  decide

/-- Both ends of every range. -/
theorem witness_RegisterAccessFailures :
    (∀ n ∈ [0x03#8, 0x0B#8, 0x3D#8, 0x3F#8, 0x80#8, 0xFF#8],
      n.toNat = 0x03 ∨ n.toNat = 0x0B ∨ (0x3D ≤ n.toNat ∧ n.toNat ≤ 0x3F) ∨ 0x80 ≤ n.toNat) ∧
    (∀ n ∈ [0x00#8, 0x01#8, 0x20#8, 0x3C#8], n.toNat ≤ 0x01 ∨ (0x20 ≤ n.toNat ∧ n.toNat ≤ 0x3C)) ∧
    (∀ n ∈ [0x04#8, 0x0A#8, 0x0C#8, 0x1F#8, 0x40#8, 0x7F#8],
      (0x04 ≤ n.toNat ∧ n.toNat ≤ 0x0A) ∨ (0x0C ≤ n.toNat ∧ n.toNat ≤ 0x1F) ∨
        (0x40 ≤ n.toNat ∧ n.toNat ≤ 0x7F)) ∧
    (opened.ctl.rxEn = true ∨ opened.ctl.txEn = true) := by decide

/-- The first and the last CFG number, with no session enabled. -/
theorem witness_ConfigWriteReadsBackMasked :
    regOf 0x04#8 = some (.cfg .sercfg) ∧ regOf 0x7F#8 = some (.cfg (.lut 63)) ∧
      closed.ctl.rxEn = false ∧ closed.ctl.txEn = false := by decide

/-- The last coefficient, and the first and the last CFG number with no session enabled. -/
theorem witness_WrittenFieldsAreUsed :
    (11 : Fin 12).val = 3 * (3 : Fin 4).val + (2 : Fin 3).val ∧
      regOf 0x04#8 = some (.cfg .sercfg) ∧ regOf 0x7F#8 = some (.cfg (.lut 63)) ∧
      closed.ctl.rxEn = false ∧ closed.ctl.txEn = false := by decide

/-- A configuration legal for both, and one legal for a transmit session only. -/
theorem witness_StartOpensAllOrNothing :
    (RxConfigLegal closed.cfg ∧ TxConfigLegal closed.cfg) ∧
      ¬RxConfigLegal { smallCfg with window := 65#7 } ∧ TxConfigLegal { smallCfg with window := 65#7 } := by
  decide

theorem witness_EnergyIsWindowSum : (1 ≤ 1 ∧ 1 ≤ 64) ∧ 1 ≤ 64 ∧ 64 ≤ 64 := by decide

/-- The longest runs, from each bound. -/
theorem witness_DebounceCounts :
    (1#16).toInt = (1#15).toNat ∧ (0xFFFF#16).toInt = -((1#15).toNat : Int) ∧
      ∃ down up : List (Energy × Energy), down.length = 2 * (1#15).toNat ∧ up.length = 2 * (1#15).toNat ∧
        (∀ e ∈ down, e.1.toNat < e.2.toNat) ∧ ∀ e ∈ up, e.2.toNat < e.1.toNat :=
  ⟨by decide, by decide, [(1#64, 2#64), (1#64, 2#64)], [(2#64, 1#64), (2#64, 1#64)], by simp⟩

/-- The small configuration with H = 0. -/
def pinned : State :=
  { opened with cfg := { smallCfg with hyst := 0#15 } }

theorem witness_ZeroHysteresisEmitsNothing :
    pinned.cfg.hyst = 0#15 ∧ pinned.ctl.rxEn = true ∧ pinned.rx.cur = 0#16 ∧
      pinned.rx.dec = { off := 0xFFFF#16, last := 0#16, bit := 0#5, byte := 0#8, par := false } ∧
      ∃ t, exec (.rxSample 5#16) pinned = .next t := ⟨rfl, rfl, rfl, rfl, _, rfl⟩

/-- The decoder idle after a level of 1. -/
def idleHigh : DecoderState :=
  { off := 0xFFFF#16, last := 1#16, bit := 0#5, byte := 0#8, par := false }

/-- An edge from LEVEL_T to just below it; no edge at LEVEL_T itself, in a frame, and with LEVEL_T = 5 from
the initial last (V-B8). -/
theorem witness_FallingEdgeArms :
    ((countDown smallCfg { idleHigh with last := 0#16 } 0xFFFF#16).1.bit = 0#5 ∧
      (0xFFFF#16).toInt < smallCfg.levelT.toInt ∧ smallCfg.levelT.toInt ≤ (0#16).toInt) ∧
    (countDown smallCfg { idleHigh with off := 2#16, bit := 1#5 } 0xFFFF#16).1.bit ≠ 0#5 ∧
    (idleHigh.off = 0xFFFF#16 ∧ idleHigh.bit = 0#5 ∧ smallCfg.levelT.toInt ≤ (0#16).toInt) ∧
    (0#16).toInt < ({ smallCfg with levelT := 5#16 } : ConfigRegs).levelT.toInt ∧
    (0xFFFF#16).toInt < ({ smallCfg with levelT := 5#16 } : ConfigRegs).levelT.toInt := by decide

theorem witness_FrameInProgressOnlyCountsDown :
    1 ≤ ({ idleHigh with off := 2#16, bit := 1#5 } : DecoderState).bit.toNat ∧
      2 ≤ ({ idleHigh with off := 2#16, bit := 1#5 } : DecoderState).off.toInt := by decide

/-- A start bit of 1, and a stop bit of 0 at the first and the last stop position. -/
theorem witness_FramingErrorReturnsToIdle :
    (({ idleHigh with off := 1#16 } : DecoderState).bit.toNat = 0 ∧ smallCfg.levelT.toInt ≤ (0#16).toInt) ∧
      smallCfg.ser.stopStart ≤ ({ idleHigh with off := 1#16, bit := 2#5 } : DecoderState).bit.toNat ∧
      (0xFFFF#16).toInt < smallCfg.levelT.toInt := by decide

/-- The small frame of one data bit 1, armed at step 0, with the next frame's edge at step 9. -/
def frameLevel (n : Nat) : Level :=
  if n < 3 ∨ n = 9 then 0xFFFF#16 else 1#16

/-- The decoder armed at step 0 of that frame. -/
def armed : DecoderState :=
  { off := 2#16, last := 0xFFFF#16, bit := 0#5, byte := 0#8, par := false }

theorem witness_FrameSampledAtInstants :
    RxConfigLegal smallCfg ∧ armed.off = smallCfg.offset ∧ armed.last = frameLevel 0 ∧
      (∀ n, 1 ≤ n → n < 2 → ¬((frameLevel n).toInt < 0 ∧ 0 ≤ (frameLevel (n - 1)).toInt)) ∧
      (∀ k, k < 3 → (k = 0 → decide (0 ≤ (frameLevel (2 + k * 3)).toInt) = false) ∧
        (2 ≤ k → decide (0 ≤ (frameLevel (2 + k * 3)).toInt) = true)) ∧
      smallCfg.ser.numFrame = 3 ∧ smallCfg.ser.stopStart = 2 := by decide

theorem witness_BackToBackFrameCaught :
    smallCfg.offset.toNat < smallCfg.spb.toNat ∧ (frameLevel 2).toInt < smallCfg.levelT.toInt ∧
      (∀ k, 2 ≤ k → k < 3 → smallCfg.levelT.toInt ≤ (frameLevel (2 + k * 3)).toInt) ∧
      (∀ n, 8 ≤ n → n < 9 → smallCfg.levelT.toInt ≤ (frameLevel n).toInt) ∧
      (frameLevel 9).toInt < smallCfg.levelT.toInt := by decide

/-- Each of the three outcomes: not primed, just below the threshold, and at it. -/
theorem witness_RxSampleRunsPipeline :
    opened.ctl.rxEn = true ∧
      (filterAndEnergy { smallCfg with window := 2#7 } opened.tab opened.rx (inputOf 5#16)).es.space.primed =
        false ∧
      (filterAndEnergy smallCfg opened.tab opened.rx (inputOf 5#16)).es.space.primed = true ∧
      (filterAndEnergy smallCfg opened.tab opened.rx (inputOf 5#16)).es.space.sum.toNat +
        (filterAndEnergy smallCfg opened.tab opened.rx (inputOf 5#16)).es.mark.sum.toNat <
        (threshOf { smallCfg with thresh := #v[1#16, 0#16, 0#16, 0#16] }).toNat ∧
      (threshOf smallCfg).toNat ≤
        (filterAndEnergy smallCfg opened.tab opened.rx (inputOf 5#16)).es.space.sum.toNat +
          (filterAndEnergy smallCfg opened.tab opened.rx (inputOf 5#16)).es.mark.sum.toNat := by decide

theorem witness_RxResponseContents :
    opened.ctl.rxEn = true ∧ ∃ t, exec (.rxSample 0x8000#16) opened = .next t := ⟨rfl, _, rfl⟩

theorem witness_PumpWithoutSessionDisabled : closed.ctl.rxEn = false ∧ closed.ctl.txEn = false := by decide

/-- The first and the last phase of each quarter. -/
theorem witness_SynthFoldsFourQuarters :
    ((0x0000#16).toNat / 256 = 0 ∧ (0x3FFF#16).toNat / 256 = 63) ∧
      ((0x4000#16).toNat / 256 = 64 + 0 ∧ (0x7FFF#16).toNat / 256 = 64 + 63) ∧
      ((0x8000#16).toNat / 256 = 128 + 0 ∧ (0xBFFF#16).toNat / 256 = 128 + 63) ∧
      (0xC000#16).toNat / 256 = 192 + 0 ∧ (0xFFFF#16).toNat / 256 = 192 + 63 := by decide

/-- The smallest and the largest frame. -/
theorem witness_FrameWordBits :
    SerialLegal smallCfg.ser ∧
      SerialLegal { dataBits := 8#4, parityBits := true, parityKind := .mark, stopBits := 7#4 } := by decide

theorem witness_ParityMakesTotal : 7 < 8 ∧ (0x00#8).getLsbD 7 = false := by decide

/-- One transmit state for every row of the table. -/
theorem witness_TransmitCaseTable :
    (opened.ctl.txEn = true ∧ (withByte { busyByte with full := true } opened).tx.byte.full = true) ∧
      (opened.tx.byte.full = false ∧ opened.tx.byte.rem = 0#5) ∧
      (busyByte.full = false ∧ busyByte.rem ≠ 0#5) ∧
      (({ busyByte with full := true, rem := 1#5 } : ByteState).full = true ∧
        ({ busyByte with full := true, rem := 1#5 } : ByteState).rem = 1#5) ∧
      (2 ≤ ({ busyByte with full := true, rem := 2#5 } : ByteState).rem.toNat) ∧
      ({ busyByte with full := true, rem := 0#5 } : ByteState).rem = 0#5 := by decide

theorem witness_TxPushCompletes :
    (opened.ctl.txEn = true ∧ opened.tx.byte.full = false ∧ opened.tx.byte.rem = 0#5) ∧
      (withByte busyByte opened).tx.byte.full = false ∧ (withByte busyByte opened).tx.byte.rem ≠ 0#5 := by
  decide

theorem witness_TxPushOverrun :
    (withByte { busyByte with full := true } opened).ctl.txEn = true ∧
      (withByte { busyByte with full := true } opened).tx.byte.full = true := by decide

/-- At a bit boundary and within a bit period. -/
theorem witness_TxSampleCompletes :
    opened.ctl.txEn = true ∧ opened.tx.byte.timer = 0#16 ∧
      (withByte { busyByte with timer := 1#16 } opened).tx.byte.timer ≠ 0#16 := by decide

theorem witness_FrameBitsHeldForSpbSamples :
    opened.ctl.txEn = true ∧ TxConfigLegal opened.cfg ∧ opened.tx.byte.rem = 0#5 ∧
      opened.tx.byte.full = false ∧ 2 < opened.cfg.ser.numFrame ∧ 2 < opened.cfg.spb.toNat := by decide

/-- The second byte pushed at once, and just before the last tick. -/
theorem witness_GaplessTransmission :
    opened.ctl.txEn = true ∧ TxConfigLegal opened.cfg ∧ opened.tx.byte.rem = 0#5 ∧
      opened.tx.byte.full = false ∧ 0 ≤ opened.cfg.ser.numFrame * opened.cfg.spb.toNat ∧
      9 ≤ opened.cfg.ser.numFrame * opened.cfg.spb.toNat := by decide

/-- The levels that follow the tones of byte 1 in the small configuration. -/
theorem witness_ToneLoopbackReturnsByte :
    (opened.ctl.txEn = true ∧ RxConfigLegal opened.cfg ∧ opened.cfg.offset.toNat < opened.cfg.spb.toNat ∧
      opened.tx.byte.rem = 0#5 ∧ opened.tx.byte.full = false) ∧
    (armed.off = opened.cfg.offset ∧ armed.bit = 0#5 ∧ armed.byte = 0#8 ∧ armed.par = false ∧
      armed.last = frameLevel 0) ∧
    ∀ n, n < 9 → (opened.cfg.levelT.toInt ≤ (frameLevel n).toInt ↔
      (afterCommands (.txPush 1#8 :: List.replicate (n + 1) .txSample) opened).tx.byte.tone = true) := by
  decide

theorem witness_ControlCommandFrames :
    (∃ t, exec .nop opened = .next t) ∧ (∃ t, exec (.rdreg 0x02#8) opened = .next t) ∧
      (∃ t, exec (.wrreg 0x02#8 0x0F00#16) opened = .next t) ∧
      (regOf 0x02#8 ≠ some (.cfg .sercfg)) ∧ (∃ t, exec (.start true false) closed = .next t) ∧
      ∃ t, exec (.stop true false) opened = .next t :=
  ⟨⟨_, rfl⟩, ⟨_, rfl⟩, ⟨_, rfl⟩, by decide, ⟨_, rfl⟩, ⟨_, rfl⟩⟩

theorem witness_PumpCommandFrames :
    (∃ t, exec (.rxSample 5#16) opened = .next t) ∧ (∃ t, exec (.txPush 1#8) opened = .next t) ∧
      ∃ t, exec .txSample opened = .next t := ⟨⟨_, rfl⟩, ⟨_, rfl⟩, ⟨_, rfl⟩⟩

theorem witness_InterleavingKeepsPipelines :
    ∀ i ∈ [Instr.rxSample 5#16, .txPush 1#8, .rxSample 6#16, .txSample],
      isReceive i = true ∨ isTransmit i = true := by decide

theorem witness_ConfigFixedDuringSession :
    (issued 0x30070001#32 opened).inputs = .command 0x30070001#32 :: [] ∧
      (opened.ctl.rxEn = true ∨ opened.ctl.txEn = true) ∧ decode 0x30070001#32 ≠ .ok .srst ∧
      ∃ t, step (issued 0x30070001#32 opened) = .next t := ⟨rfl, by decide, by decide, _, rfl⟩

/-- The small state with every sticky bit set. -/
def stuck : State :=
  { opened with
    ctl := { rxEn := true, txEn := true, feSeen := true, peSeen := true, ovrSeen := true, lsSeen := true } }

theorem witness_StickyBitsPersist :
    (issued 0x40000003#32 stuck).inputs = .command 0x40000003#32 :: [] ∧
      decode 0x40000003#32 = .ok (.start true true) ∧
      (∃ t, step (issued 0x40000003#32 stuck) = .next t) ∧
      (stuck.ctl.feSeen && stuck.ctl.peSeen && stuck.ctl.ovrSeen && stuck.ctl.lsSeen) = true :=
  ⟨rfl, by decide, ⟨_, rfl⟩, rfl⟩

/-- Both invariants hold, and not vacuously, of the two sessions just opened. -/
theorem witness_StepKeepsSessionInvariants :
    RxInv opened ∧ TxInv opened ∧ ∃ t, step (issued 0x60000005#32 opened) = .next t :=
  ⟨by decide, by decide, _, rfl⟩

theorem witness_PseudoCommandsExpand : 0x2C#8 = 0x0C#8 ∨ 0x2C#8 = 0x28#8 ∨ 0x2C#8 = 0x2C#8 := by decide

theorem witness_Wr64SetsThreshold : closed.ctl.rxEn = false ∧ closed.ctl.txEn = false := by decide

theorem witness_FetchedWordRunsNext : decode (tableWord 32 0x80000000) = .ok .txSample := by decide

end Sys2Proof.Tests
end

section
/-! Rules about the step and about the invariants of 10_state.md R42: what a step can be, which parts of the
state each invariant reads, and that each internal operation of the two pipelines keeps the part of the
invariant it works on. -/

namespace Sys2Proof.Proofs

open Sys2Proof Sys2Proof.Machine Sys2Proof.Laws

/-! ### The step -/

/-- Every outcome of a step (20_memory.md R57, 60_exceptions.md R158, R168): the block waits, is reset, answers
an illegal word, or runs the command its next input decodes to. -/
theorem step_cases {s t : State} (h : step s = .next t) :
    (s.inputs = [] ∧ t = s) ∨
    (∃ rest, s.inputs = .resetInput :: rest ∧ t = resetBlock { s with inputs := rest }) ∨
    (∃ c rest e, s.inputs = .command c :: rest ∧ decode c = .error e ∧
      t = State.answered { s with inputs := rest } (responseWord .illegal 0#12 0#16)) ∨
    ∃ c rest i, s.inputs = .command c :: rest ∧ decode c = .ok i ∧
      exec i { s with inputs := rest } = .next t := by
  unfold step at h
  cases hin : s.inputs with
  | nil =>
    rw [takeInput_nil hin] at h
    injection h with h
    exact .inl ⟨rfl, h.symm⟩
  | cons i rest =>
    rw [takeInput_cons hin] at h
    cases i with
    | resetInput =>
      injection h with h
      exact .inr (.inl ⟨rest, rfl, h.symm⟩)
    | command c =>
      change runCommand c _ = _ at h
      cases hc : decode c with
      | error e =>
        rw [runCommand_illegal hc] at h
        injection h with h
        exact .inr (.inr (.inl ⟨c, rest, e, rfl, hc, h.symm⟩))
      | ok i =>
        rw [runCommand_legal hc] at h
        exact .inr (.inr (.inr ⟨c, rest, i, rfl, hc, h⟩))

/-- The outcome of NOP (47_control.md R144). -/
theorem execNop_next {s t : State} (h : execNop s = .next t) :
    t = s.answered (responseWord .ok 0#12 0#16) := by
  injection h with h
  exact h.symm

/-- The outcome of SRST (47_control.md R145). -/
theorem execSrst_next {s t : State} (h : execSrst s = .next t) :
    t = (resetBlock s).answered (responseWord .ok 0#12 0#16) := by
  injection h with h
  exact h.symm

/-- The outcome of STOP (47_control.md R151). -/
theorem execStop_next {rx tx : Bool} {s t : State} (h : execStop rx tx s = .next t) :
    t = State.answered { s with ctl := { s.ctl with rxEn := s.ctl.rxEn && !rx, txEn := s.ctl.txEn && !tx } }
      (responseWord .ok 0#12 0#16) := by
  injection h with h
  exact h.symm

/-! ### What the invariants read -/

/-- The invariants read the configuration, the two sessions and the enables, and a cleared enable asks for
nothing. -/
theorem sessionInv_of_frame {s t : State} (h : SessionInv s) (hcfg : t.cfg = s.cfg) (hrx : t.rx = s.rx)
    (htx : t.tx = s.tx) (hre : t.ctl.rxEn = true → s.ctl.rxEn = true)
    (hte : t.ctl.txEn = true → s.ctl.txEn = true) : SessionInv t := by
  obtain ⟨hr, ht⟩ := h
  unfold SessionInv RxInv TxInv
  rw [hcfg, hrx, htx]
  exact ⟨fun he => hr (hre he), fun he => ht (hte he)⟩

/-- With no session enabled the invariants ask for nothing. -/
theorem sessionInv_of_disabled {s : State} (hr : s.ctl.rxEn = false) (ht : s.ctl.txEn = false) :
    SessionInv s := ⟨by simp [hr], by simp [ht]⟩

/-! ### CHECK -/

/-- A field placed within its register is 0 exactly when its bit is. -/
theorem bitAt_eq_zero_iff {p : Nat} (hp : p < 16) {b : Bool} : bitAt p b = 0#16 ↔ b = false := by
  interval_cases p <;> cases b <;> decide

/-- A count that CHECK does not report is legal (47_control.md R149). -/
theorem countLegal_of_not_badCount {v : BitVec 16} (h : badCount v = false) : CountLegal v := by
  simp only [badCount, Config.countMax, decide_eq_false_iff_not] at h
  exact ⟨by omega, by omega⟩

/-- A mask of 0 means that the configuration is legal for every selected pipeline (47_control.md R149). -/
theorem configLegal_of_checkMask {rx tx : Bool} {c : ConfigRegs} (h : checkMask rx tx c = 0#16) :
    (rx = true → RxConfigLegal c) ∧ (tx = true → TxConfigLegal c) := by
  simp only [checkMask, Config.dataBitsMax, Config.frameBitsMax, Config.wmax, BitVec.or_eq_zero_iff]
    at h
  obtain ⟨⟨⟨⟨⟨hdata, hstop⟩, htotal⟩, hwindow⟩, hoffset⟩, hspb⟩ := h
  rw [bitAt_eq_zero_iff (by omega)] at hdata hstop htotal hwindow hoffset hspb
  have txLegal (hsel : (rx || tx) = true) : TxConfigLegal c := by
    rw [hsel, Bool.true_and] at hdata hstop htotal hspb
    rw [decide_eq_false_iff_not] at hdata hstop htotal
    exact ⟨⟨by omega, by omega, by omega⟩, countLegal_of_not_badCount hspb⟩
  refine ⟨fun hrx => ?_, fun htx => txLegal (by simp [htx])⟩
  rw [hrx, Bool.true_and] at hwindow hoffset
  rw [decide_eq_false_iff_not] at hwindow
  exact ⟨txLegal (by simp [hrx]), by omega, countLegal_of_not_badCount hoffset⟩

/-! ### DECODE -/

/-- A legal count is positive as a signed value. -/
theorem one_le_toInt_of_countLegal {v : BitVec 16} (h : CountLegal v) : 1 ≤ v.toInt := by
  obtain ⟨hlo, hhi⟩ := h
  rw [toInt_16, if_pos (by omega)]
  omega

/-- The idle decoder meets its invariant. -/
theorem decoderOk_idle (ser : SerCfg) (d : DecoderState) : DecoderOk ser (decoderIdle d) := by
  refine ⟨.inl rfl, ?_, by simp, by simp⟩
  simp only [decoderIdle_bit, SerCfg.numFrame, BitVec.toNat_ofNat]
  omega

/-- Accepting a bit keeps DEC.byte below 2^D: a data bit i ≤ D goes to bit i - 1 (44_decoder.md R110). -/
theorem acceptBit_byte_lt {ser : SerCfg} {d d' : DecoderState} {b : Bool} (h : acceptBit ser d b = some d')
    (hbyte : d.byte.toNat < 2 ^ ser.numData) : d'.byte.toNat < 2 ^ ser.numData := by
  rcases Nat.eq_zero_or_pos d.bit.toNat with hbit | hbit
  · cases b with
    | true => rw [acceptBit_none.2 (.inl ⟨hbit, rfl⟩)] at h; cases h
    | false => rw [acceptBit_start hbit] at h; cases h; exact hbyte
  · by_cases hdata : d.bit.toNat < ser.parStart
    · rw [acceptBit_data hbit hdata] at h
      cases h
      have hpos : d.bit.toNat - 1 < ser.numData := by
        simp only [SerCfg.parStart] at hdata
        omega
      have hnew : b.toNat * 2 ^ (d.bit.toNat - 1) < 2 ^ ser.numData :=
        calc b.toNat * 2 ^ (d.bit.toNat - 1) ≤ 1 * 2 ^ (d.bit.toNat - 1) :=
              Nat.mul_le_mul_right _ (Bool.toNat_le b)
          _ = 2 ^ (d.bit.toNat - 1) := Nat.one_mul _
          _ < 2 ^ ser.numData := Nat.pow_lt_pow_right (by omega) hpos
      simp only [BitVec.toNat_or, BitVec.toNat_ofNat]
      exact Nat.or_lt_two_pow hbyte ((Nat.mod_le _ _).trans_lt hnew)
    · by_cases hpar : d.bit.toNat < ser.stopStart
      · rw [acceptBit_parity (by omega) hpar] at h
        cases h
        exact hbyte
      · cases b with
        | true => rw [acceptBit_stop (by omega)] at h; cases h; exact hbyte
        | false => rw [acceptBit_none.2 (.inr ⟨by omega, hbit, rfl⟩)] at h; cases h

/-- A sampling instant leaves the decoder idle, or armed with SPB for the next bit of the frame (44_decoder.md
R113 to R115). -/
theorem decoderOk_sampleBit {cfg : ConfigRegs} (hcfg : TxConfigLegal cfg) {d : DecoderState} (b : Bool)
    (hbit : d.bit.toNat < cfg.ser.numFrame) (hbyte : d.byte.toNat < 2 ^ cfg.ser.numData) :
    DecoderOk cfg.ser (sampleBit cfg d b).1 := by
  obtain ⟨⟨-, -, htotal⟩, hspb⟩ := hcfg
  rcases sampleBit_cases cfg d b with ⟨-, h⟩ | ⟨d', hacc, ⟨-, h⟩ | ⟨hlast, h⟩⟩ <;> rw [h]
  · exact decoderOk_idle _ _
  · exact decoderOk_idle _ _
  · have harmed := one_le_toInt_of_countLegal hspb
    have hnext : (d.bit + 1#5).toNat = d.bit.toNat + 1 := by
      have : cfg.ser.numFrame ≤ 17 := by
        simp only [SerCfg.numFrame]
        omega
      rw [BitVec.toNat_add]
      simp only [BitVec.toNat_ofNat]
      omega
    have hkept : d'.byte.toNat < 2 ^ cfg.ser.numData := acceptBit_byte_lt hacc hbyte
    refine ⟨.inr harmed, ?_, fun _ => harmed, hkept⟩
    simp only [hnext]
    omega

/-- The countdown part keeps the decoder's invariant (44_decoder.md R108). -/
theorem decoderOk_countDown {cfg : ConfigRegs} (hcfg : TxConfigLegal cfg) {d : DecoderState} (level : Level)
    (hd : DecoderOk cfg.ser d) : DecoderOk cfg.ser (countDown cfg d level).1 := by
  obtain ⟨hoff, hbit, harmed, hbyte⟩ := hd
  rcases hoff with hidle | hoff
  · rw [countDown_unarmed _ _ _ (by omega)]
    exact ⟨.inl hidle, hbit, harmed, hbyte⟩
  · rcases hoff.eq_or_lt with hone | hmore
    · rw [countDown_instant _ _ _ (BitVec.eq_of_toInt_eq hone.symm)]
      exact decoderOk_sampleBit hcfg _ hbit hbyte
    · have hcount := toInt_sub_one d.off (by omega)
      rw [countDown_counting _ _ _ hmore]
      exact ⟨.inr (by simp only [hcount]; omega), hbit, fun _ => by simp only [hcount]; omega, hbyte⟩

/-- The edge test keeps the decoder's invariant: it arms with a legal OFFSET (44_decoder.md R107). -/
theorem decoderOk_armOnEdge {cfg : ConfigRegs} (hoffset : CountLegal cfg.offset) {d : DecoderState}
    (level : Level) (hd : DecoderOk cfg.ser d) : DecoderOk cfg.ser (armOnEdge cfg d level) := by
  have ⟨_, hbit, _, hbyte⟩ := hd
  have harmed := one_le_toInt_of_countLegal hoffset
  unfold armOnEdge
  split
  · exact ⟨.inr harmed, hbit, fun _ => harmed, hbyte⟩
  · exact hd

/-- DECODE keeps the decoder's invariant (44_decoder.md R106). -/
theorem decoderOk_decodeLevel {cfg : ConfigRegs} (hcfg : RxConfigLegal cfg) {d : DecoderState} (level : Level)
    (hd : DecoderOk cfg.ser d) : DecoderOk cfg.ser (decodeLevel cfg d level).1 := by
  obtain ⟨htx, -, hoffset⟩ := hcfg
  exact decoderOk_armOnEdge hoffset level (decoderOk_countDown htx level hd)

/-! ### DISCRIMINATE -/

/-- The counter stays within the bound, whatever it was (43_discriminator.md R100). -/
theorem levelOk_discriminate (h : BitVec 15) (cur : Level) (a b : Energy) :
    LevelOk h (discriminate h cur a b) := by
  unfold LevelOk
  rw [toInt_discriminate, clamp]
  omega

/-! ### ENERGY -/

/-- Replacing an entry of the summed part of a window takes the old entry out of the total and the new one
in. -/
theorem windowTotal_set {w : Nat} {win : Vector Energy 64} {p : Nat} (hp : p < 64) (hw : p < w) (q : Energy) :
    windowTotal w (win.set p q) + (win[p]).toNat = windowTotal w win + q.toNat := by
  have hlen : p < ((win.toList.take w).map BitVec.toNat).length := by simp; omega
  have hset : ((win.set p q).toList.take w).map BitVec.toNat =
      ((win.toList.take w).map BitVec.toNat).set p q.toNat := by
    rw [Vector.toList_set, List.take_set, List.map_set]
  have hold : ((win.toList.take w).map BitVec.toNat)[p] = (win[p]).toNat := by simp
  have hself := List.sum_set ((win.toList.take w).map BitVec.toNat) p (win[p]).toNat
  rw [← hold, List.set_getElem_self] at hself
  have hnew := List.sum_set ((win.toList.take w).map BitVec.toNat) p q.toNat
  rw [if_pos hlen] at hself hnew
  simp only [windowTotal]
  rw [hset]
  omega

/-- ENERGY keeps the sum that of its window modulo 2^64 (42_energy.md R92). -/
theorem energyStep_sum_toNat {w : Nat} {es : EnergyState} (y : FiltWord) (hptr : es.ptr.val < w)
    (hsum : es.sum.toNat = windowTotal w es.win % 2 ^ 64) :
    (energyStep w es y).sum.toNat = windowTotal w (energyStep w es y).win % 2 ^ 64 := by
  have htotal := windowTotal_set (win := es.win) es.ptr.isLt hptr (squareOf y)
  have hold := (es.win[es.ptr.val]).isLt
  rw [energyStep_sum, energyStep_win, BitVec.toNat_add, BitVec.toNat_sub]
  omega

/-- The pointer after ENERGY depends on the pointer before alone (42_energy.md R93). -/
theorem energyStep_ptr (w : Nat) (es : EnergyState) (y : FiltWord) :
    (energyStep w es y).ptr = if w ≤ es.ptr.val + 1 then 0 else Fin.ofNat 64 (es.ptr.val + 1) := by
  simp [energyStep]

/-- ENERGY keeps the pointer below a legal window size (42_energy.md R93). -/
theorem energyStep_ptr_lt {w : Nat} (es : EnergyState) (y : FiltWord) (hlo : 1 ≤ w) (hhi : w ≤ 64) :
    (energyStep w es y).ptr.val < w := by
  rw [energyStep_ptr]
  split
  · exact hlo
  · rw [Fin.val_ofNat, Nat.mod_eq_of_lt] <;> omega

/-- ENERGY on both tones keeps the two estimators in lockstep and each sum that of its window (42_energy.md
R92, R96). -/
theorem energyOk_energyStep {w : Nat} {es : PerTone EnergyState} (hlo : 1 ≤ w) (hhi : w ≤ 64)
    (h : EnergyOk w es) (y0 y1 : FiltWord) :
    EnergyOk w { space := energyStep w es.space y0, mark := energyStep w es.mark y1 } := by
  obtain ⟨hptr, hlt, hprimed, hsum0, hsum1⟩ := h
  refine ⟨?_, energyStep_ptr_lt _ _ hlo hhi, ?_, energyStep_sum_toNat y0 hlt hsum0,
    energyStep_sum_toNat y1 (hptr ▸ hlt) hsum1⟩
  · simp only [energyStep_ptr, hptr]
  · simp only [energyStep_primed, hptr, hprimed]

/-! ### TICK, PROMOTE and the bit timer -/

/-- The bits of a legal frame, at most 17, fit TX.rem (10_state.md R21, R41). -/
theorem toNat_ofNat_numFrame {ser : SerCfg} (hser : SerialLegal ser) :
    (BitVec.ofNat 5 ser.numFrame).toNat = ser.numFrame := by
  obtain ⟨-, -, htotal⟩ := hser
  rw [BitVec.toNat_ofNat, Nat.mod_eq_of_lt]
  simp only [SerCfg.numFrame]
  omega

/-- A bit boundary adds no bits and leaves the pending slot as it is (46_transmit.md R137). -/
theorem shiftOut_rem_le_and_full (b : ByteState) :
    (shiftOut b).rem.toNat ≤ b.rem.toNat ∧ (shiftOut b).full = b.full := by
  by_cases h : b.rem = 0#5
  · rw [shiftOut_idle h]
    exact ⟨le_rfl, rfl⟩
  · rw [shiftOut_busy h]
    refine ⟨?_, rfl⟩
    simp only [toNat_sub_one_5 _ h]
    omega

/-- TICK keeps the bits left within a frame, and leaves no byte pending while idle (46_transmit.md R137). -/
theorem tick_rem_le_and_busy {ser : SerCfg} (hser : SerialLegal ser) {b : ByteState}
    (hrem : b.rem.toNat ≤ ser.numFrame) :
    (tick ser b).1.rem.toNat ≤ ser.numFrame ∧
      ((tick ser b).1.full = true → 1 ≤ (tick ser b).1.rem.toNat) := by
  obtain ⟨hle, -⟩ := shiftOut_rem_le_and_full b
  by_cases hempty : (shiftOut b).rem = 0#5
  · cases hfull : (shiftOut b).full with
    | true =>
      rw [tick_promotes hempty hfull, promote_rem, toNat_ofNat_numFrame hser]
      exact ⟨le_rfl, fun h => nomatch h⟩
    | false =>
      rw [tick_continues (.inr hfull)]
      exact ⟨hle.trans hrem, by simp [hfull]⟩
  · rw [tick_continues (.inl hempty)]
    exact ⟨hle.trans hrem, fun _ => (toNat_pos_iff _).2 hempty⟩

/-- The bit boundary test leaves a timer of 1 to SPB and keeps the transmit invariant (46_transmit.md R138). -/
theorem byteOk_bitBoundary {cfg : ConfigRegs} (hcfg : TxConfigLegal cfg) {b : ByteState} (hb : ByteOk cfg b) :
    ByteOk cfg (bitBoundary cfg b).byte ∧ 1 ≤ (bitBoundary cfg b).byte.timer.toNat := by
  obtain ⟨hser, hspb, -⟩ := hcfg
  by_cases h : b.timer = 0#16
  · obtain ⟨hrem, hbusy⟩ := tick_rem_le_and_busy hser hb.1
    rw [bitBoundary_tick h]
    exact ⟨⟨hrem, hbusy, le_rfl⟩, hspb⟩
  · rw [bitBoundary_hold h]
    exact ⟨hb, (toNat_pos_iff _).2 h⟩

/-- TX_SAMPLE keeps the transmit invariant: the timer counts down from 1 to SPB (46_transmit.md R138). -/
theorem byteOk_afterSample {cfg : ConfigRegs} (hcfg : TxConfigLegal cfg) (tab : Tables) (phase : Phase)
    {b : ByteState} (hb : ByteOk cfg b) :
    ByteOk cfg (afterSample cfg tab (bitBoundary cfg b) phase).byte := by
  obtain ⟨⟨hrem, hbusy, htimer⟩, hpos⟩ := byteOk_bitBoundary hcfg hb
  refine ⟨hrem, hbusy, ?_⟩
  have hlt := (bitBoundary cfg b).byte.timer.isLt
  simp only [afterSample_byte, BitVec.toNat_sub, BitVec.toNat_ofNat]
  omega

/-- Idle, a pushed byte is promoted at once and the bit timer restarts (46_transmit.md R135). -/
theorem pushByte_idle {cfg : ConfigRegs} {b : ByteState} (byte : Byte) (h : b.rem.toNat = 0) :
    pushByte cfg byte b =
      ({ promote cfg.ser { b with nxt := frameWord cfg.ser (maskData cfg.ser byte), full := true } with
          timer := cfg.spb }, true) := by
  simp only [pushByte, h, if_true]

/-- Busy, a pushed byte waits in the pending slot (46_transmit.md R135). -/
theorem pushByte_busy {cfg : ConfigRegs} {b : ByteState} (byte : Byte) (h : b.rem.toNat ≠ 0) :
    pushByte cfg byte b =
      ({ b with nxt := frameWord cfg.ser (maskData cfg.ser byte), full := true }, false) := by
  simp only [pushByte, h, if_false]

/-- TX_PUSH keeps the transmit invariant: promoted at once, the slot is empty again; else a word is shifting
out (46_transmit.md R135). -/
theorem byteOk_pushByte {cfg : ConfigRegs} (hcfg : TxConfigLegal cfg) (byte : Byte) {b : ByteState}
    (hb : ByteOk cfg b) : ByteOk cfg (pushByte cfg byte b).1 := by
  obtain ⟨hser, -⟩ := hcfg
  obtain ⟨hrem, -, htimer⟩ := hb
  by_cases hidle : b.rem.toNat = 0
  · rw [pushByte_idle byte hidle]
    exact ⟨(toNat_ofNat_numFrame hser).le, fun h => absurd h Bool.false_ne_true, le_rfl⟩
  · rw [pushByte_busy byte hidle]
    exact ⟨hrem, fun _ => Nat.pos_of_ne_zero hidle, htimer⟩

end Sys2Proof.Proofs
end

section
/-! Every step keeps the invariants of 10_state.md R42: one lemma for each command that changes what they
read, then the step. -/

namespace Sys2Proof.Proofs

open Sys2Proof Sys2Proof.Machine Sys2Proof.Laws

/-- The reset state has no session enabled (10_state.md R44). -/
theorem sessionInv_resetBlock (s : State) : SessionInv (resetBlock s) := sessionInv_of_disabled rfl rfl

/-- The estimators RX_INIT clears are in lockstep, with the sum of an empty window (70_reset_and_hazards.md
R174). -/
theorem energyOk_rxInit {w : Nat} (hw : 1 ≤ w) : EnergyOk w rxInit.es := by
  have hzero : windowTotal w EnergyState.reset.win = 0 := by
    rw [windowTotal, EnergyState.reset, Vector.toList_replicate, List.take_replicate, List.map_replicate,
      List.sum_replicate]
    simp
  have hsum : EnergyState.reset.sum.toNat = windowTotal w EnergyState.reset.win % 2 ^ 64 := by
    rw [hzero]
    rfl
  exact ⟨rfl, hw, rfl, hsum, hsum⟩

/-- The receive session START opens meets the invariant of a legal configuration (70_reset_and_hazards.md
R174). -/
theorem rxInv_of_rxInit {s : State} (hcfg : RxConfigLegal s.cfg) (hrx : s.rx = rxInit) : RxInv s := by
  have ⟨_, ⟨hwindow, _⟩, _⟩ := hcfg
  unfold RxInv
  rw [hrx]
  exact ⟨hcfg, decoderOk_idle _ rxInit.dec, by simp [LevelOk, rxInit], energyOk_rxInit hwindow⟩

/-- The transmit session START opens meets the invariant of a legal configuration (70_reset_and_hazards.md
R175). -/
theorem txInv_of_txInit {s : State} (hcfg : TxConfigLegal s.cfg) (htx : s.tx = txInit) : TxInv s := by
  unfold TxInv
  rw [htx]
  exact ⟨hcfg, Nat.zero_le _, fun h => absurd h Bool.false_ne_true, Nat.zero_le _⟩

/-- START opens only sessions with a legal configuration, and keeps one already open (47_control.md R148). -/
theorem sessionInv_openSessions {rx tx : Bool} {s : State} (hs : SessionInv s)
    (hmask : checkMask rx tx s.cfg = 0#16) : SessionInv (openSessions rx tx s) := by
  obtain ⟨hrxLegal, htxLegal⟩ := configLegal_of_checkMask hmask
  obtain ⟨hrx, htx⟩ := hs
  constructor
  · intro hen
    cases rx with
    | true => exact rxInv_of_rxInit (hrxLegal rfl) rfl
    | false => exact hrx (by simpa using hen)
  · intro hen
    cases tx with
    | true => exact txInv_of_txInit (htxLegal rfl) rfl
    | false => exact htx (by simpa using hen)

/-- WRREG keeps the invariants: an unlocked write of a CFG register finds no session enabled (20_memory.md
R52). -/
theorem sessionInv_execWrreg {reg : RegNum} {val : RegVal} {s t : State} (hs : SessionInv s)
    (h : execWrreg reg val s = .next t) : SessionInv t := by
  rcases execWrreg_cases h with ⟨-, rfl⟩ | ⟨-, -, rfl⟩ | ⟨-, rfl⟩ | ⟨-, -, -, rfl⟩ | ⟨r, -, hlock, rfl⟩
  · exact hs
  · exact hs
  · exact sessionInv_of_frame hs rfl rfl rfl id id
  · exact hs
  · simp only [configLocked, Bool.or_eq_false_iff] at hlock
    obtain ⟨hrx, htx⟩ := hlock
    exact sessionInv_of_disabled (by simpa using hrx) (by simpa using htx)

/-- START keeps the invariants. -/
theorem sessionInv_execStart {rx tx : Bool} {s t : State} (hs : SessionInv s)
    (h : execStart rx tx s = .next t) : SessionInv t := by
  rcases execStart_cases h with ⟨-, rfl⟩ | ⟨hmask, rfl⟩
  · exact hs
  · exact sessionInv_openSessions hs hmask

/-- STOP keeps the invariants: it only clears enables (47_control.md R151). -/
theorem sessionInv_execStop {rx tx : Bool} {s t : State} (hs : SessionInv s)
    (h : execStop rx tx s = .next t) : SessionInv t := by
  rw [execStop_next h]
  refine sessionInv_of_frame hs rfl rfl rfl (fun hen => ?_) (fun hen => ?_) <;>
    exact ((Bool.and_eq_true _ _).mp hen).1

/-- RX_SAMPLE keeps the invariants: the estimators, the counter and the decoder each keep theirs (44_decoder.md
R117). -/
theorem sessionInv_execRxSample {sample : Sample} {s t : State} (hs : SessionInv s)
    (h : execRxSample sample s = .next t) : SessionInv t := by
  rcases execRxSample_cases h with ⟨-, rfl⟩ | ⟨hen, rx, rfl, hcases⟩
  · exact hs
  · obtain ⟨hcfg, hdec, hcur, hes⟩ := hs.1 hen
    have ⟨_, ⟨hlo, hhi⟩, _⟩ := hcfg
    have hes' : EnergyOk s.cfg.window.toNat (filterAndEnergy s.cfg s.tab s.rx (inputOf sample)).es :=
      energyOk_energyStep hlo hhi hes _ _
    rcases hcases with ⟨-, rfl⟩ | ⟨-, -, rfl⟩ | ⟨-, -, d, rfl, rfl⟩
    · exact ⟨fun _ => ⟨hcfg, hdec, hcur, hes'⟩, hs.2⟩
    · exact ⟨fun _ => ⟨hcfg, hdec, hcur, hes'⟩, hs.2⟩
    · exact ⟨fun _ => ⟨hcfg, decoderOk_decodeLevel hcfg _ hdec, levelOk_discriminate _ _ _ _, hes'⟩, hs.2⟩

/-- TX_PUSH keeps the invariants (46_transmit.md R135). -/
theorem sessionInv_execTxPush {byte : Byte} {s t : State} (hs : SessionInv s)
    (h : execTxPush byte s = .next t) : SessionInv t := by
  rcases execTxPush_cases h with ⟨-, rfl⟩ | ⟨-, -, rfl⟩ | ⟨hen, -, p, rfl, rfl⟩
  · exact hs
  · exact hs
  · obtain ⟨hcfg, hbyte⟩ := hs.2 hen
    exact ⟨hs.1, fun _ => ⟨hcfg, byteOk_pushByte hcfg byte hbyte⟩⟩

/-- TX_SAMPLE keeps the invariants (46_transmit.md R138). -/
theorem sessionInv_execTxSample {s t : State} (hs : SessionInv s) (h : execTxSample s = .next t) :
    SessionInv t := by
  rcases execTxSample_cases h with ⟨-, rfl⟩ | ⟨hen, k, rfl, rfl⟩
  · exact hs
  · obtain ⟨hcfg, hbyte⟩ := hs.2 hen
    exact ⟨hs.1, fun _ => ⟨hcfg, byteOk_afterSample hcfg s.tab s.tx.phase hbyte⟩⟩

/-- Every command keeps the invariants of both pipelines. -/
theorem sessionInv_exec {i : Instr} {s t : State} (hs : SessionInv s) (h : exec i s = .next t) :
    SessionInv t := by
  cases i with
  | nop => rw [execNop_next h]; exact hs
  | srst => rw [execSrst_next h]; exact sessionInv_resetBlock s
  | rdreg reg => rcases execRdreg_cases h with ⟨-, rfl⟩ | ⟨-, -, rfl⟩ <;> exact hs
  | wrreg reg val => exact sessionInv_execWrreg hs h
  | start rx tx => exact sessionInv_execStart hs h
  | stop rx tx => exact sessionInv_execStop hs h
  | rxSample sample => exact sessionInv_execRxSample hs h
  | txPush byte => exact sessionInv_execTxPush hs h
  | txSample => exact sessionInv_execTxSample hs h

/-- Settles O56: a step waits, resets, refuses an illegal word, or runs a command, and each keeps the
invariants. -/
theorem stepKeepsSessionInvariants : Obligations.StepKeepsSessionInvariants := by
  intro s t hs h
  rcases step_cases h with ⟨-, rfl⟩ | ⟨rest, -, rfl⟩ | ⟨c, rest, e, -, -, rfl⟩ | ⟨c, rest, i, -, -, hexec⟩
  · exact hs
  · exact sessionInv_resetBlock _
  · exact hs
  · have htaken : SessionInv { s with inputs := rest } := hs
    exact sessionInv_exec htaken hexec

/-- Settles O55: no session is enabled at reset. -/
theorem resetHasSessionInvariants : Obligations.ResetHasSessionInvariants :=
  sessionInv_of_disabled rfl rfl

end Sys2Proof.Proofs
end

section
/-! Registers: which one a number names, what RDREG answers and what WRREG does, and from these the statements
about STATUS, the CFG registers, the RO registers and WR64 (10_state.md R17 to R33, 47_control.md R146,
R147). -/

namespace Sys2Proof.Proofs

open Sys2Proof Sys2Proof.Machine Sys2Proof.Laws

/-! ### The register map -/

/-- The number of each THRESH register (10_state.md R28). -/
theorem regOf_thresh : ∀ j : Fin 4, regOf (BitVec.ofNat 8 (0x0C + j.val)) = some (.cfg (.thresh j)) := by
  decide

/-- The number of each COEF entry (10_state.md R29). -/
theorem regOf_coef : ∀ i : Fin 12, regOf (BitVec.ofNat 8 (0x10 + i.val)) = some (.cfg (.coef i)) := by
  decide

/-- The number of each STEP entry (10_state.md R30). -/
theorem regOf_step : ∀ f : Fin 4, regOf (BitVec.ofNat 8 (0x1C + f.val)) = some (.cfg (.step f)) := by
  decide

/-- The number of each LUT entry (10_state.md R31). -/
theorem regOf_lut : ∀ i : Fin 64, regOf (BitVec.ofNat 8 (0x40 + i.val)) = some (.cfg (.lut i)) := by
  decide

/-- The number of each part of the space energy sum (10_state.md R32). -/
theorem regOf_enSum0 : ∀ j : Fin 4, regOf (BitVec.ofNat 8 (0x28 + j.val)) = some (.ro (.enSum0 j)) := by
  decide

/-- The number of each part of the mark energy sum (10_state.md R32). -/
theorem regOf_enSum1 : ∀ j : Fin 4, regOf (BitVec.ofNat 8 (0x2C + j.val)) = some (.ro (.enSum1 j)) := by
  decide

/-- The number of each part of the space filter output (10_state.md R32). -/
theorem regOf_fltY0 : ∀ j : Fin 2, regOf (BitVec.ofNat 8 (0x38 + j.val)) = some (.ro (.fltY0 j)) := by
  decide

/-- The number of each part of the mark filter output (10_state.md R32). -/
theorem regOf_fltY1 : ∀ j : Fin 2, regOf (BitVec.ofNat 8 (0x3A + j.val)) = some (.ro (.fltY1 j)) := by
  decide

/-- The numbers 0x20 to 0x3C are the debug registers (10_state.md R32). -/
theorem regOf_debug (k : Fin 29) : ∃ r, regOf (BitVec.ofNat 8 (0x20 + k.val)) = some (.ro r) := by
  fin_cases k <;> exact ⟨_, rfl⟩

/-- Only 0x02 names STATUS (10_state.md R20). -/
theorem regOf_eq_status_iff : ∀ n : RegNum, regOf n = some .status ↔ n = 0x02#8 := by decide

/-- The unmapped numbers (10_state.md R33). -/
theorem regOf_eq_none_iff : ∀ n : RegNum, regOf n = none ↔
    n.toNat = 0x03 ∨ n.toNat = 0x0B ∨ (0x3D ≤ n.toNat ∧ n.toNat ≤ 0x3F) ∨ 0x80 ≤ n.toNat := by decide

/-- Settles O14, from the map of each row and the two facts over all numbers. -/
theorem registerMapByNumber : Obligations.RegisterMapByNumber := by
  refine ⟨rfl, rfl, rfl, rfl, rfl, rfl, rfl, rfl, rfl, rfl, regOf_thresh, regOf_coef, regOf_step, regOf_lut,
    fun n hlo hhi => ?_, regOf_eq_none_iff⟩
  have hn : n = BitVec.ofNat 8 (0x20 + (n.toNat - 0x20)) := by
    rw [Nat.add_sub_cancel' hlo, BitVec.ofNat_toNat, BitVec.setWidth_eq]
  rw [hn]
  exact regOf_debug ⟨n.toNat - 0x20, by omega⟩

/-! ### RDREG and WRREG -/

/-- RDREG of a mapped number answers OK and the register's value, and changes nothing (47_control.md R146). -/
theorem exec_rdreg_mapped {n : RegNum} {r : RegName} {v : RegVal} (s : State) (hr : regOf n = some r)
    (hv : readReg s r = v) : exec (.rdreg n) s = .next (s.answered (0x0000#16 ++ v)) := by
  change execRdreg n s = _
  simp only [execRdreg, hr, hv, respond_eq, responseWord_ok]

/-- WRREG of a CFG number with no session enabled is the write of its register (20_memory.md R50). -/
theorem exec_wrreg_unlocked {n : RegNum} {r : CfgReg} {s : State} (v : RegVal)
    (hr : regOf n = some (.cfg r)) (hu : configLocked s = false) :
    exec (.wrreg n v) s = .next ((writeCfg r v s).answered 0x00000000#32) := by
  change execWrreg n v s = _
  simp only [execWrreg, hr, hu, respond_eq]
  rfl

/-- WRREG of STATUS is its write in every state (47_control.md R147). -/
theorem exec_wrreg_status (v : RegVal) (s : State) :
    exec (.wrreg 0x02#8 v) s = .next ((writeStatus v s).answered 0x00000000#32) := rfl

/-- With neither session enabled the configuration is not locked (20_memory.md R52). -/
theorem configLocked_eq_false {s : State} (hr : s.ctl.rxEn = false) (ht : s.ctl.txEn = false) :
    configLocked s = false := by
  simp [configLocked, hr, ht]

/-! ### STATUS -/

/-- The bits of a 1-bit field placed within its register. -/
theorem getLsbD_bitAt {p : Nat} (hp : p < 16) (b : Bool) (i : Nat) :
    (bitAt p b).getLsbD i = (decide (i = p) && b) := by
  simp only [bitAt, BitVec.getLsbD_shiftLeft, BitVec.getLsbD_setWidth, BitVec.getLsbD_ofBool]
  rcases Nat.lt_trichotomy i p with h | rfl | h
  · simp [h, h.ne]
  · simp [hp]
  · simp [h.ne', Nat.sub_ne_zero_of_lt h]

/-- STATUS bit by bit (10_state.md R20). -/
theorem getLsbD_statusWord (s : State) (i : Nat) : (statusWord s).getLsbD i =
    (decide (i = 0) && s.ctl.rxEn || decide (i = 1) && s.ctl.txEn ||
      decide (i = 2) && s.rx.es.space.primed || decide (i = 3) && txBusy s.tx.byte ||
      decide (i = 4) && s.tx.byte.full || decide (i = 5) && rxArmed s.rx.dec ||
      decide (i = 8) && s.ctl.feSeen || decide (i = 9) && s.ctl.peSeen ||
      decide (i = 10) && s.ctl.ovrSeen || decide (i = 11) && s.ctl.lsSeen) := by
  simp (disch := omega) only [statusWord, BitVec.getLsbD_or, getLsbD_bitAt]

/-- The bits of STATUS above its fields are 0 (10_state.md R20). -/
theorem getLsbD_statusWord_high (s : State) {i : Nat} (hi : 12 ≤ i) : (statusWord s).getLsbD i = false := by
  have hne : ∀ p < 12, decide (i = p) = false := fun p hp => decide_eq_false (by omega)
  rw [getLsbD_statusWord]
  simp [hne]

/-- A sticky bit after a write, from the bit of the value written (10_state.md R20). -/
theorem and_not_eq_ite (seen clear : Bool) : (seen && !clear) = if clear then false else seen := by
  cases clear <;> simp

/-- STATUS after reset (10_state.md R20). -/
theorem statusWord_reset : statusWord State.reset = 0x0000#16 := by decide

/-- Settles O20: the bits of STATUS one by one, and its write as the clearing of the sticky bits. -/
theorem statusReadsAndClears : Obligations.StatusReadsAndClears := by
  refine ⟨fun s => ⟨statusWord s, exec_rdreg_mapped s rfl rfl, ?_⟩, ?_, fun s v => ?_⟩
  · refine ⟨?_, ?_, ?_, ?_, ?_, ?_, ?_, ?_, ?_, ?_, ?_, ?_, fun i hi => getLsbD_statusWord_high s hi⟩ <;>
      simp only [getLsbD_statusWord] <;> simp [txBusy, rxArmed]
  · exact exec_rdreg_mapped (n := 0x02#8) (r := .status) State.reset rfl statusWord_reset
  · exact ⟨_, exec_wrreg_status v s, rfl, rfl, rfl, rfl, rfl, rfl, rfl, rfl, and_not_eq_ite _ _,
      and_not_eq_ite _ _, and_not_eq_ite _ _, and_not_eq_ite _ _⟩

/-! ### CFG registers -/

/-- The parity kind written is the one its code names (10_state.md R21). -/
theorem parityKind_serOfVal_eq_iff (v : RegVal) :
    ((serOfVal v).parityKind = .space ↔ v.toNat / 32 % 4 = 0) ∧
    ((serOfVal v).parityKind = .mark ↔ v.toNat / 32 % 4 = 1) ∧
    ((serOfVal v).parityKind = .even ↔ v.toNat / 32 % 4 = 2) ∧
    ((serOfVal v).parityKind = .odd ↔ v.toNat / 32 % 4 = 3) := by
  have h := parityOfCode_eq_iff (v.extractLsb' 5 2)
  rwa [toNat_extract_eq] at h

/-- Settles O19: each register's write by its definition, its fields as numbers. -/
theorem writtenFieldsAreUsed : Obligations.WrittenFieldsAreUsed := by
  intro s v
  obtain ⟨hspace, hmark, heven, hodd⟩ := parityKind_serOfVal_eq_iff v
  refine ⟨?_, toNat_getLsbD_eq v 4, ?_, hspace, hmark, heven, hodd, toNat_extract_eq v 8 4, ?_,
    toNat_getLsbD_eq v 1, ?_, ?_, rfl, rfl, rfl, fun j => ?_, fun i => ?_, fun f k i hi => ?_, fun f => ?_,
    fun i => ?_, fun n r hr hrx htx => ?_, toNat_threshOf s.cfg⟩
  · simp [writeCfg, serOfVal, SerCfg.numData]
  · change (parityCode (parityOfCode (v.extractLsb' 5 2))).toNat = _
    rw [parityCode_parityOfCode]
    exact toNat_extract_eq v 5 2
  · exact (toNat_getLsbD_eq v 0).trans (by rw [Nat.pow_zero, Nat.div_one])
  · simp [writeCfg]
  · simp [writeCfg]
  · simp [writeCfg]
  · simp [writeCfg]
  · simp [writeCfg, coefOf, ← hi]
  · simp [writeCfg, stepOf]
  · simp [writeCfg]
  · exact exec_wrreg_unlocked v hr (configLocked_eq_false hrx htx)

/-! ### WR64 -/

/-- A run's first command, when it is an unlocked WRREG of a CFG number, is the write of its register. -/
theorem afterCommands_wrreg_unlocked {n : RegNum} {r : CfgReg} {s : State} (v : RegVal) (is : List Instr)
    (hr : regOf n = some (.cfg r)) (hu : configLocked s = false) :
    afterCommands (.wrreg n v :: is) s = afterCommands is ((writeCfg r v s).answered 0x00000000#32) := by
  rw [afterCommands_cons, afterCommand_next (exec_wrreg_unlocked v hr hu)]

/-- Neither a CFG write nor a response locks the configuration. -/
theorem configLocked_writeCfg_answered (r : CfgReg) (v : RegVal) (s : State) (p : ResponseWord) :
    configLocked ((writeCfg r v s).answered p) = configLocked s := by
  simp [configLocked]

/-- A CFG write and its response leave every other CFG register as it was. -/
theorem readCfg_writeCfg_answered_of_ne {r r' : CfgReg} (v : RegVal) (s : State) (p : ResponseWord)
    (h : r' ≠ r) : readCfg ((writeCfg r v s).answered p) r' = readCfg s r' :=
  (readReg_answered (writeCfg r v s) p (.cfg r')).trans (readCfg_writeCfg_of_ne v s h)

/-- Settles O58: the four writes one after the other, then the parts of v put together. -/
theorem wr64SetsThreshold : Obligations.Wr64SetsThreshold := by
  intro s v hrx htx
  have hu := configLocked_eq_false hrx htx
  simp only [expandPseudo]
  rw [afterCommands_wrreg_unlocked (n := 0x0C#8) (r := .thresh 0) _ _ rfl hu,
    afterCommands_wrreg_unlocked (n := 0x0D#8) (r := .thresh 1) _ _ rfl
      (by simp only [configLocked_writeCfg_answered, hu]),
    afterCommands_wrreg_unlocked (n := 0x0E#8) (r := .thresh 2) _ _ rfl
      (by simp only [configLocked_writeCfg_answered, hu]),
    afterCommands_wrreg_unlocked (n := 0x0F#8) (r := .thresh 3) _ _ rfl
      (by simp only [configLocked_writeCfg_answered, hu]),
    afterCommands_nil]
  refine ⟨?_, by simp, by simp, by simp, fun r hne => ?_⟩
  · have hv := v.isLt
    rw [toNat_threshOf]
    simp [writeCfg]
    omega
  · simp only [readCfg_writeCfg_answered_of_ne _ _ _ (hne _)]

/-! ### RO registers -/

/-- A value widened to a register has 0 in its unused high bits (10_state.md R32). -/
theorem setWidth_eq_zero_append {m : Nat} (n : Nat) (x : BitVec m) : x.setWidth (n + m) = 0#n ++ x := by
  apply BitVec.eq_of_toNat_eq
  have hlt : x.toNat < 2 ^ (n + m) := x.isLt.trans_le (Nat.pow_le_pow_right (by omega) (by omega))
  rw [toNat_append_eq, BitVec.toNat_setWidth, Nat.mod_eq_of_lt hlt]
  simp

/-- A 1-bit field at position 0 (10_state.md R32). -/
theorem bitAt_zero_eq (b : Bool) : bitAt 0 b = 0#15 ++ BitVec.ofBool b := by cases b <;> decide

/-- A bit as a field of one bit. -/
theorem ofBool_getLsbD_eq {w : Nat} (x : BitVec w) (i : Nat) :
    BitVec.ofBool (x.getLsbD i) = x.extractLsb' i 1 := by
  apply BitVec.eq_of_toNat_eq
  rw [BitVec.toNat_ofBool, toNat_getLsbD_eq, toNat_extract_eq, Nat.pow_one]

/-- FLT_PTR holds the space pointer in its bits 1:0 and the mark pointer in its bits 3:2 (10_state.md R32). -/
theorem fltPtr_eq : ∀ p q : Fin 3,
    BitVec.ofNat 16 (p.val + 4 * q.val) = 0#12 ++ BitVec.ofNat 2 q.val ++ BitVec.ofNat 2 p.val := by decide

/-- Settles O21: each number's register by the map, its value by READ. -/
theorem readOnlyRegistersShowState : Obligations.ReadOnlyRegistersShowState := by
  intro s
  refine ⟨exec_rdreg_mapped s rfl rfl, exec_rdreg_mapped s rfl rfl, exec_rdreg_mapped s rfl rfl,
    exec_rdreg_mapped s rfl (setWidth_eq_zero_append 11 s.rx.dec.bit),
    exec_rdreg_mapped s rfl (setWidth_eq_zero_append 8 s.rx.dec.byte),
    exec_rdreg_mapped s rfl (bitAt_zero_eq _), exec_rdreg_mapped s rfl rfl, exec_rdreg_mapped s rfl rfl,
    exec_rdreg_mapped s rfl rfl, exec_rdreg_mapped s rfl rfl,
    fun j hj => exec_rdreg_mapped s (regOf_enSum0 ⟨j, hj⟩) rfl,
    fun j hj => exec_rdreg_mapped s (regOf_enSum1 ⟨j, hj⟩) rfl,
    exec_rdreg_mapped s rfl rfl, exec_rdreg_mapped s rfl ?_, exec_rdreg_mapped s rfl rfl,
    exec_rdreg_mapped s rfl ?_, exec_rdreg_mapped s rfl (setWidth_eq_zero_append 11 s.tx.byte.rem),
    exec_rdreg_mapped s rfl rfl, exec_rdreg_mapped s rfl (bitAt_zero_eq _), exec_rdreg_mapped s rfl rfl,
    fun j hj => exec_rdreg_mapped s (regOf_fltY0 ⟨j, hj⟩) ?_,
    fun j hj => exec_rdreg_mapped s (regOf_fltY1 ⟨j, hj⟩) ?_,
    exec_rdreg_mapped s rfl (fltPtr_eq _ _)⟩
  · rw [← ofBool_getLsbD_eq]
    exact bitAt_zero_eq _
  · rw [← ofBool_getLsbD_eq]
    exact bitAt_zero_eq _
  · simp only [readReg, readRo, part32, lastSlot_val]
  · simp only [readReg, readRo, part32, lastSlot_val]

end Sys2Proof.Proofs
end

section
/-! Frames: what the pump commands leave unchanged, and that no command but SRST and a STATUS write clears a
sticky bit (10_state.md R14, R34, R46). -/

namespace Sys2Proof.Proofs

open Sys2Proof Sys2Proof.Machine

/-! ### The pump commands -/

/-- What RX_SAMPLE leaves unchanged (44_decoder.md R117). -/
theorem execRxSample_frame {sample : Sample} {s t : State} (h : execRxSample sample s = .next t) :
    t.cfg = s.cfg ∧ t.tab = s.tab ∧ t.tx = s.tx ∧ t.inputs = s.inputs ∧ t.ctl.rxEn = s.ctl.rxEn ∧
      t.ctl.txEn = s.ctl.txEn ∧ t.ctl.ovrSeen = s.ctl.ovrSeen := by
  rcases execRxSample_cases h with ⟨-, rfl⟩ | ⟨-, rx, -, ⟨-, rfl⟩ | ⟨-, -, rfl⟩ | ⟨-, -, d, -, rfl⟩⟩ <;>
    exact ⟨rfl, rfl, rfl, rfl, rfl, rfl, rfl⟩

/-- What TX_PUSH leaves unchanged (46_transmit.md R135). -/
theorem execTxPush_frame {byte : Byte} {s t : State} (h : execTxPush byte s = .next t) :
    t.cfg = s.cfg ∧ t.tab = s.tab ∧ t.rx = s.rx ∧ t.tx.phase = s.tx.phase ∧ t.inputs = s.inputs ∧
      t.ctl = { s.ctl with ovrSeen := t.ctl.ovrSeen } := by
  rcases execTxPush_cases h with ⟨-, rfl⟩ | ⟨-, -, rfl⟩ | ⟨-, -, p, -, rfl⟩ <;>
    exact ⟨rfl, rfl, rfl, rfl, rfl, rfl⟩

/-- TICK leaves the pending word as it is: PROMOTE copies it (46_transmit.md R136, R137). -/
theorem tick_nxt (ser : SerCfg) (b : ByteState) : (tick ser b).1.nxt = b.nxt := by
  have hshift : (shiftOut b).nxt = b.nxt := by
    by_cases h : b.rem = 0#5
    · rw [shiftOut_idle h]
    · rw [shiftOut_busy h]
  by_cases h : (shiftOut b).rem = 0#5 ∧ (shiftOut b).full = true
  · obtain ⟨hrem, hfull⟩ := h
    rw [tick_promotes hrem hfull, promote_nxt, hshift]
  · rw [tick_continues (by simpa using not_and_or.1 h)]
    exact hshift

/-- The bit boundary test leaves the pending word as it is (46_transmit.md R138). -/
theorem bitBoundary_nxt (cfg : ConfigRegs) (b : ByteState) : (bitBoundary cfg b).byte.nxt = b.nxt := by
  by_cases h : b.timer = 0#16
  · rw [bitBoundary_tick h]
    exact tick_nxt cfg.ser b
  · rw [bitBoundary_hold h]

/-- What TX_SAMPLE leaves unchanged (46_transmit.md R138). -/
theorem execTxSample_frame {s t : State} (h : execTxSample s = .next t) :
    t.cfg = s.cfg ∧ t.tab = s.tab ∧ t.rx = s.rx ∧ t.ctl = s.ctl ∧ t.tx.byte.nxt = s.tx.byte.nxt ∧
      t.inputs = s.inputs := by
  rcases execTxSample_cases h with ⟨-, rfl⟩ | ⟨-, k, rfl, rfl⟩
  · exact ⟨rfl, rfl, rfl, rfl, rfl, rfl⟩
  · exact ⟨rfl, rfl, rfl, rfl, bitBoundary_nxt s.cfg s.tx.byte, rfl⟩

/-- Settles O51, from the frame of each pump command. -/
theorem pumpCommandFrames : Obligations.PumpCommandFrames := fun _ _ =>
  ⟨fun _ h => execRxSample_frame h, fun _ h => execTxPush_frame h, fun h => execTxSample_frame h⟩

/-! ### The sticky bits -/

/-- Every sticky bit set in the one control state is set in the other (10_state.md R34). -/
def StickyKept (c c' : Control) : Prop :=
  (c.feSeen = true → c'.feSeen = true) ∧ (c.peSeen = true → c'.peSeen = true) ∧
    (c.ovrSeen = true → c'.ovrSeen = true) ∧ (c.lsSeen = true → c'.lsSeen = true)

/-- Unchanged sticky bits are kept, whatever the enables. -/
theorem stickyKept_enables (c : Control) (rxEn txEn : Bool) :
    StickyKept c { c with rxEn := rxEn, txEn := txEn } := ⟨id, id, id, id⟩

/-- Unchanged control state keeps its sticky bits. -/
theorem stickyKept_refl (c : Control) : StickyKept c c := ⟨id, id, id, id⟩

/-- WRREG keeps the sticky bits, but in a write of STATUS (47_control.md R147). -/
theorem stickyKept_execWrreg {reg : RegNum} {val : RegVal} {s t : State} (hreg : reg ≠ 0x02#8)
    (h : execWrreg reg val s = .next t) : StickyKept s.ctl t.ctl := by
  rcases execWrreg_cases h with ⟨-, rfl⟩ | ⟨-, -, rfl⟩ | ⟨hst, -⟩ | ⟨-, -, -, rfl⟩ | ⟨r, -, -, rfl⟩
  · exact stickyKept_refl _
  · exact stickyKept_refl _
  · exact absurd ((regOf_eq_status_iff reg).1 hst) hreg
  · exact stickyKept_refl _
  · rw [State.answered_ctl, writeCfg_ctl]
    exact stickyKept_refl _

/-- START clears no sticky bit (47_control.md R148). -/
theorem stickyKept_execStart {rx tx : Bool} {s t : State} (h : execStart rx tx s = .next t) :
    StickyKept s.ctl t.ctl := by
  rcases execStart_cases h with ⟨-, rfl⟩ | ⟨-, rfl⟩
  · exact stickyKept_refl _
  · exact stickyKept_enables _ _ _

/-- RX_SAMPLE only sets sticky bits (44_decoder.md R117). -/
theorem stickyKept_execRxSample {sample : Sample} {s t : State} (h : execRxSample sample s = .next t) :
    StickyKept s.ctl t.ctl := by
  rcases execRxSample_cases h with ⟨-, rfl⟩ | ⟨-, rx, -, ⟨-, rfl⟩ | ⟨-, -, rfl⟩ | ⟨-, -, d, -, rfl⟩⟩
  · exact stickyKept_refl _
  · exact stickyKept_refl _
  · exact ⟨id, id, id, fun _ => rfl⟩
  · exact ⟨fun hfe => by simp [hfe], fun hpe => by simp [hpe], id, id⟩

/-- TX_PUSH only sets OVR_SEEN (46_transmit.md R135). -/
theorem stickyKept_execTxPush {byte : Byte} {s t : State} (h : execTxPush byte s = .next t) :
    StickyKept s.ctl t.ctl := by
  rcases execTxPush_cases h with ⟨-, rfl⟩ | ⟨-, -, rfl⟩ | ⟨-, -, p, -, rfl⟩
  · exact stickyKept_refl _
  · exact ⟨id, id, fun _ => rfl, id⟩
  · exact stickyKept_refl _

/-- Every command but SRST and a write of STATUS keeps the sticky bits (10_state.md R34). -/
theorem stickyKept_exec {i : Instr} {s t : State} (hsrst : i ≠ .srst) (hclear : ∀ v, i ≠ .wrreg 0x02#8 v)
    (h : exec i s = .next t) : StickyKept s.ctl t.ctl := by
  cases i with
  | nop => rw [execNop_next h]; exact stickyKept_refl _
  | srst => exact absurd rfl hsrst
  | rdreg reg => rcases execRdreg_cases h with ⟨-, rfl⟩ | ⟨-, -, rfl⟩ <;> exact stickyKept_refl _
  | wrreg reg val => exact stickyKept_execWrreg (fun hreg => hclear val (by rw [hreg])) h
  | start rx tx => exact stickyKept_execStart h
  | stop rx tx => rw [execStop_next h]; exact stickyKept_enables _ _ _
  | rxSample sample => exact stickyKept_execRxSample h
  | txPush byte => exact stickyKept_execTxPush h
  | txSample =>
    obtain ⟨-, -, -, hctl, -⟩ := execTxSample_frame h
    rw [hctl]
    exact stickyKept_refl _

/-- Settles O54: the step answers an illegal word or runs the decoded command, which is neither SRST nor a
STATUS write. -/
theorem stickyBitsPersist : Obligations.StickyBitsPersist := by
  intro s t c rest hin hsrst hclear hstep
  rcases step_cases hstep with ⟨hnil, -⟩ | ⟨rest', hreset, -⟩ | ⟨c', rest', e, -, -, rfl⟩ |
    ⟨c', rest', i, hin', hdec, hexec⟩
  · rw [hin] at hnil; cases hnil
  · rw [hin] at hreset; cases hreset
  · exact stickyKept_refl s.ctl
  · rw [hin] at hin'
    cases hin'
    have hnot : i ≠ .srst := fun hi => hsrst (hi ▸ hdec)
    have hnoclear : ∀ v, i ≠ .wrreg 0x02#8 v := fun v hi => hclear v (hi ▸ hdec)
    exact stickyKept_exec (s := { s with inputs := rest }) hnot hnoclear hexec

end Sys2Proof.Proofs
end

section
/-! The step on a command word, what a run of words does, what RDREG and WRREG answer and change, and the frames
of the control commands (20_memory.md R45 to R57, 60_exceptions.md R153). -/

namespace Sys2Proof.Proofs

open Sys2Proof Sys2Proof.Machine Sys2Proof.Laws

/-! ### The step on a command word -/

/-- A step whose next input is a command word takes it and runs it whole (20_memory.md R57). -/
theorem step_command {s : State} {c : CommandWord} {rest : List PortInput}
    (hin : s.inputs = .command c :: rest) : step s = runCommand c { s with inputs := rest } := by
  rw [step, takeInput_cons hin]
  rfl

/-- Settles O5: the word is taken, and a legal one is run as its command. -/
theorem stepRunsDecodedCommand : Obligations.StepRunsDecodedCommand := by
  intro s c rest i hin hdec
  rw [step_command hin, runCommand_legal hdec]

/-- Settles O59: the word placed first is the next input, and taking it gives the state back. -/
theorem fetchedWordRunsNext : Obligations.FetchedWordRunsNext := fun s nbits w i hdec =>
  stepRunsDecodedCommand (s.withFetchWord nbits w) (tableWord nbits w) s.inputs i rfl hdec

/-! ### One response for each command -/

/-- The outcome is a next state with the same inputs to come and one more response (60_exceptions.md R153). -/
def AnswersOnce (s : State) (o : StepOutcome) : Prop :=
  ∃ t p, o = .next t ∧ t.inputs = s.inputs ∧ t.responses = s.responses ++ [p]

/-- A response given from a state with the port of s is the one response. -/
theorem answersOnce_respond {s u : State} (st : Status) (flags : BitVec 12) (data : RegVal)
    (hin : u.inputs = s.inputs) (hresp : u.responses = s.responses) :
    AnswersOnce s (respond st flags data u) :=
  ⟨u.answered (responseWord st flags data), responseWord st flags data, respond_eq st flags data u, hin,
    congrArg (· ++ [responseWord st flags data]) hresp⟩

/-- RDREG answers once (47_control.md R146). -/
theorem answersOnce_execRdreg (reg : RegNum) (s : State) : AnswersOnce s (execRdreg reg s) := by
  unfold execRdreg
  split
  · exact answersOnce_respond _ _ _ rfl rfl
  · exact answersOnce_respond _ _ _ rfl rfl

/-- WRREG answers once (47_control.md R147). -/
theorem answersOnce_execWrreg (reg : RegNum) (val : RegVal) (s : State) :
    AnswersOnce s (execWrreg reg val s) := by
  unfold execWrreg
  split
  · exact answersOnce_respond _ _ _ rfl rfl
  · exact answersOnce_respond _ _ _ rfl rfl
  · exact answersOnce_respond _ _ _ rfl rfl
  · split
    · exact answersOnce_respond _ _ _ rfl rfl
    · exact answersOnce_respond _ _ _ (writeCfg_inputs _ _ _) (writeCfg_responses _ _ _)

/-- START answers once (47_control.md R148). -/
theorem answersOnce_execStart (rx tx : Bool) (s : State) : AnswersOnce s (execStart rx tx s) := by
  unfold execStart
  split
  · exact answersOnce_respond _ _ _ rfl rfl
  · exact answersOnce_respond _ _ _ rfl rfl

/-- RX_SAMPLE answers once, at whichever gate it ends (44_decoder.md R117). -/
theorem answersOnce_execRxSample (sample : Sample) (s : State) : AnswersOnce s (execRxSample sample s) := by
  unfold execRxSample
  dsimp only
  split
  · exact answersOnce_respond _ _ _ rfl rfl
  · split
    · exact answersOnce_respond _ _ _ rfl rfl
    · split
      · exact answersOnce_respond _ _ _ rfl rfl
      · exact answersOnce_respond _ _ _ rfl rfl

/-- TX_PUSH answers once (46_transmit.md R135). -/
theorem answersOnce_execTxPush (byte : Byte) (s : State) : AnswersOnce s (execTxPush byte s) := by
  unfold execTxPush
  dsimp only
  split
  · exact answersOnce_respond _ _ _ rfl rfl
  · split
    · exact answersOnce_respond _ _ _ rfl rfl
    · exact answersOnce_respond _ _ _ rfl rfl

/-- TX_SAMPLE answers once (46_transmit.md R138). -/
theorem answersOnce_execTxSample (s : State) : AnswersOnce s (execTxSample s) := by
  unfold execTxSample
  dsimp only
  split
  · exact answersOnce_respond _ _ _ rfl rfl
  · exact answersOnce_respond _ _ _ rfl rfl

/-- Every command answers once in every state (60_exceptions.md R153). -/
theorem answersOnce_exec (i : Instr) (s : State) : AnswersOnce s (exec i s) := by
  cases i with
  | nop => exact answersOnce_respond _ _ _ rfl rfl
  | srst => exact answersOnce_respond _ _ _ (resetBlock_inputs s) (resetBlock_responses s)
  | rdreg reg => exact answersOnce_execRdreg reg s
  | wrreg reg val => exact answersOnce_execWrreg reg val s
  | start rx tx => exact answersOnce_execStart rx tx s
  | stop rx tx => exact answersOnce_respond _ _ _ rfl rfl
  | rxSample sample => exact answersOnce_execRxSample sample s
  | txPush byte => exact answersOnce_execTxPush byte s
  | txSample => exact answersOnce_execTxSample s

/-- Every command word answers once, an illegal one by its refusal (60_exceptions.md R158). -/
theorem answersOnce_runCommand (c : CommandWord) (s : State) : AnswersOnce s (runCommand c s) := by
  cases hdec : decode c with
  | error e => exact ⟨_, _, runCommand_illegal hdec s, rfl, rfl⟩
  | ok i =>
    rw [runCommand_legal hdec]
    exact answersOnce_exec i s

/-- A step on a command word takes it and adds one response. -/
theorem step_command_answers {s : State} {c : CommandWord} {rest : List PortInput}
    (hin : s.inputs = .command c :: rest) :
    ∃ t p, step s = .next t ∧ t.inputs = rest ∧ t.responses = s.responses ++ [p] := by
  rw [step_command hin]
  exact answersOnce_runCommand c { s with inputs := rest }

/-- A run whose first step gives a next state goes on from there. -/
theorem run_succ_of_step {s t : State} (k : Nat) (h : step s = .next t) :
    Host.Core.run core (k + 1) s = Host.Core.run core k t := by
  have hcore : core.step s = .next t := h
  simp only [Host.Core.run, hcore]

/-- Settles O9, by induction on the words: the first is taken and answered, and the others are a run from the
state it leaves. -/
theorem commandSequenceRunsToItsEnd : Obligations.CommandSequenceRunsToItsEnd := by
  intro cs
  induction cs with
  | nil => exact fun s hin => ⟨s, rfl, hin, rfl⟩
  | cons c cs ih =>
    intro s hin
    obtain ⟨u, p, hstep, huin, huresp⟩ := step_command_answers hin
    obtain ⟨t, hrun, htin, htlen⟩ := ih u huin
    refine ⟨t, (run_succ_of_step cs.length hstep).trans hrun, htin, ?_⟩
    simp only [htlen, huresp, List.length_append, List.length_cons, List.length_nil]
    omega

/-! ### Reading and writing registers -/

/-- RDREG of an unmapped number answers BADREG, and changes nothing (47_control.md R146). -/
theorem exec_rdreg_unmapped {n : RegNum} (s : State) (hr : regOf n = none) :
    exec (.rdreg n) s = .next (s.answered (responseWord .badreg 0#12 0#16)) := by
  change execRdreg n s = _
  simp only [execRdreg, hr, raise_eq]

/-- Settles O16: an unmapped number is refused in every state, and a response changes no register. -/
theorem readsHaveNoSideEffect : Obligations.ReadsHaveNoSideEffect := by
  intro s n
  cases hr : regOf n with
  | none => exact ⟨_, exec_rdreg_unmapped s hr, exec_rdreg_unmapped _ hr⟩
  | some r => exact ⟨_, exec_rdreg_mapped s hr rfl, exec_rdreg_mapped _ hr (readReg_answered s _ r)⟩

/-- A CFG register reads back what an answered write has put in its defined bits (20_memory.md R51). -/
theorem readCfg_writeCfg_answered_self (r : CfgReg) (v : RegVal) (s : State) (p : ResponseWord) :
    readCfg ((writeCfg r v s).answered p) r = v &&& fieldMask r :=
  (readReg_answered (writeCfg r v s) p (.cfg r)).trans (readCfg_writeCfg_self r v s)

/-- Settles O18: the unlocked WRREG is its register's write, and RDREG reads that register. -/
theorem configWriteReadsBackMasked : Obligations.ConfigWriteReadsBackMasked := by
  intro n r hr
  refine ⟨fun s => exec_rdreg_mapped s hr rfl, fun s v hrx htx => ?_⟩
  have hself := readCfg_writeCfg_answered_self r v s 0x00000000#32
  exact ⟨_, exec_wrreg_unlocked v hr (configLocked_eq_false hrx htx), writeCfg_inputs r v s,
    congrArg (· ++ [0x00000000#32]) (writeCfg_responses r v s), writeCfg_ctl r v s, writeCfg_rx r v s,
    writeCfg_tx r v s, exec_rdreg_mapped _ hr hself, hself,
    fun _ hne => readCfg_writeCfg_answered_of_ne v s _ hne⟩

/-! ### The frames of the control commands -/

/-- NOP changes only the responses (47_control.md R144). -/
theorem execNop_frame {s t : State} (h : execNop s = .next t) : SameBlock s t ∧ t.inputs = s.inputs := by
  rw [execNop_next h]
  exact ⟨⟨rfl, rfl, rfl, rfl, rfl⟩, rfl⟩

/-- RDREG changes only the responses (20_memory.md R48). -/
theorem execRdreg_frame {n : RegNum} {s t : State} (h : execRdreg n s = .next t) :
    SameBlock s t ∧ t.inputs = s.inputs := by
  rcases execRdreg_cases h with ⟨-, rfl⟩ | ⟨-, -, rfl⟩
  · exact ⟨⟨rfl, rfl, rfl, rfl, rfl⟩, rfl⟩
  · exact ⟨⟨rfl, rfl, rfl, rfl, rfl⟩, rfl⟩

/-- What WRREG leaves unchanged: a refusal everything, a STATUS write all but the sticky bits, a CFG write all
but its register (20_memory.md R46, R50). -/
theorem execWrreg_frame {n : RegNum} {v : RegVal} {s t : State} (h : execWrreg n v s = .next t) :
    t.rx = s.rx ∧ t.tx = s.tx ∧ t.ctl.rxEn = s.ctl.rxEn ∧ t.ctl.txEn = s.ctl.txEn ∧ t.inputs = s.inputs ∧
      (n ≠ 0x02#8 → t.ctl = s.ctl) ∧ ∀ r : CfgReg, regOf n ≠ some (.cfg r) → readCfg t r = readCfg s r := by
  have hrefused : ∀ (p : ResponseWord) (r : CfgReg), readCfg (s.answered p) r = readCfg s r :=
    fun p r => readReg_answered s p (.cfg r)
  rcases execWrreg_cases h with ⟨-, rfl⟩ | ⟨-, -, rfl⟩ | ⟨hst, rfl⟩ | ⟨-, -, -, rfl⟩ | ⟨r, hr, -, rfl⟩
  · exact ⟨rfl, rfl, rfl, rfl, rfl, fun _ => rfl, fun r _ => hrefused _ r⟩
  · exact ⟨rfl, rfl, rfl, rfl, rfl, fun _ => rfl, fun r _ => hrefused _ r⟩
  · refine ⟨rfl, rfl, rfl, rfl, rfl, fun hne => absurd ((regOf_eq_status_iff n).1 hst) hne, fun r _ => ?_⟩
    exact (readReg_answered (writeStatus v s) _ (.cfg r)).trans (readCfg_writeStatus v s r)
  · exact ⟨rfl, rfl, rfl, rfl, rfl, fun _ => rfl, fun r _ => hrefused _ r⟩
  · refine ⟨by simp, by simp, by simp, by simp, by simp, fun _ => by simp, fun r' hne => ?_⟩
    have hother : r' ≠ r := by
      rintro rfl
      exact hne hr
    exact readCfg_writeCfg_answered_of_ne v s _ hother

/-- What START leaves unchanged: the configuration, the sticky bits and the pipelines not selected
(47_control.md R148). -/
theorem execStart_frame {rx tx : Bool} {s t : State} (h : execStart rx tx s = .next t) :
    t.cfg = s.cfg ∧ t.tab = s.tab ∧ t.inputs = s.inputs ∧
      t.ctl.feSeen = s.ctl.feSeen ∧ t.ctl.peSeen = s.ctl.peSeen ∧ t.ctl.ovrSeen = s.ctl.ovrSeen ∧
      t.ctl.lsSeen = s.ctl.lsSeen ∧
      (rx = false → t.rx = s.rx ∧ t.ctl.rxEn = s.ctl.rxEn) ∧
      (tx = false → t.tx = s.tx ∧ t.ctl.txEn = s.ctl.txEn) := by
  rcases execStart_cases h with ⟨-, rfl⟩ | ⟨-, rfl⟩
  · exact ⟨rfl, rfl, rfl, rfl, rfl, rfl, rfl, fun _ => ⟨rfl, rfl⟩, fun _ => ⟨rfl, rfl⟩⟩
  · refine ⟨rfl, rfl, rfl, rfl, rfl, rfl, rfl, fun hrx => ?_, fun htx => ?_⟩
    · simp [hrx]
    · simp [htx]

/-- What STOP leaves unchanged: all but the enables it selects (47_control.md R151). -/
theorem execStop_frame {rx tx : Bool} {s t : State} (h : execStop rx tx s = .next t) :
    t.cfg = s.cfg ∧ t.tab = s.tab ∧ t.rx = s.rx ∧ t.tx = s.tx ∧ t.inputs = s.inputs ∧
      t.ctl.feSeen = s.ctl.feSeen ∧ t.ctl.peSeen = s.ctl.peSeen ∧ t.ctl.ovrSeen = s.ctl.ovrSeen ∧
      t.ctl.lsSeen = s.ctl.lsSeen ∧
      (rx = false → t.ctl.rxEn = s.ctl.rxEn) ∧ (tx = false → t.ctl.txEn = s.ctl.txEn) := by
  rw [execStop_next h]
  refine ⟨rfl, rfl, rfl, rfl, rfl, rfl, rfl, rfl, rfl, fun hrx => ?_, fun htx => ?_⟩
  · simp [hrx]
  · simp [htx]

/-- Settles O50, from the frame of each control command. -/
theorem controlCommandFrames : Obligations.ControlCommandFrames := fun _ _ =>
  ⟨fun h => execNop_frame h, fun _ h => execRdreg_frame h, fun _ _ h => execWrreg_frame h,
    fun _ _ h => execStart_frame h, fun _ _ h => execStop_frame h⟩

/-! ### The configuration lock -/

/-- With the configuration locked, WRREG changes no CFG register and no table (20_memory.md R52). -/
theorem execWrreg_config_of_locked {n : RegNum} {v : RegVal} {s t : State} (hlock : configLocked s = true)
    (h : execWrreg n v s = .next t) : t.cfg = s.cfg ∧ t.tab = s.tab := by
  rcases execWrreg_cases h with ⟨-, rfl⟩ | ⟨-, -, rfl⟩ | ⟨-, rfl⟩ | ⟨-, -, -, rfl⟩ | ⟨r, -, hopen, -⟩
  · exact ⟨rfl, rfl⟩
  · exact ⟨rfl, rfl⟩
  · exact ⟨rfl, rfl⟩
  · exact ⟨rfl, rfl⟩
  · rw [hlock] at hopen
    cases hopen

/-- With the configuration locked, only SRST changes a CFG register or a table (20_memory.md R52). -/
theorem exec_config_of_locked {i : Instr} {s t : State} (hlock : configLocked s = true) (hsrst : i ≠ .srst)
    (h : exec i s = .next t) : t.cfg = s.cfg ∧ t.tab = s.tab := by
  cases i with
  | nop =>
    obtain ⟨⟨hcfg, htab, -⟩, -⟩ := execNop_frame h
    exact ⟨hcfg, htab⟩
  | srst => exact absurd rfl hsrst
  | rdreg reg =>
    obtain ⟨⟨hcfg, htab, -⟩, -⟩ := execRdreg_frame h
    exact ⟨hcfg, htab⟩
  | wrreg reg val => exact execWrreg_config_of_locked hlock h
  | start rx tx =>
    obtain ⟨hcfg, htab, -⟩ := execStart_frame h
    exact ⟨hcfg, htab⟩
  | stop rx tx =>
    obtain ⟨hcfg, htab, -⟩ := execStop_frame h
    exact ⟨hcfg, htab⟩
  | rxSample sample =>
    obtain ⟨hcfg, htab, -⟩ := execRxSample_frame h
    exact ⟨hcfg, htab⟩
  | txPush byte =>
    obtain ⟨hcfg, htab, -⟩ := execTxPush_frame h
    exact ⟨hcfg, htab⟩
  | txSample =>
    obtain ⟨hcfg, htab, -⟩ := execTxSample_frame h
    exact ⟨hcfg, htab⟩

/-- Settles O53: an illegal word changes nothing, and a legal one is a command other than SRST. -/
theorem configFixedDuringSession : Obligations.ConfigFixedDuringSession := by
  intro s t c rest hin henabled hsrst hstep
  rw [step_command hin] at hstep
  cases hdec : decode c with
  | error e =>
    rw [runCommand_illegal hdec] at hstep
    cases hstep
    exact ⟨rfl, rfl⟩
  | ok i =>
    rw [runCommand_legal hdec] at hstep
    have hlock : configLocked s = true := configLocked_iff.2 henabled
    have hnot : i ≠ .srst := fun hi => hsrst (hi ▸ hdec)
    exact exec_config_of_locked (s := { s with inputs := rest }) hlock hnot hstep

end Sys2Proof.Proofs
end

section
/-! The encoding: a command word put together from the fields of its format, the decoder as the inverse of the
encoder, and from these the statements of spec/30_encoding.md R65 to R79. -/

namespace Sys2Proof.Proofs

open Sys2Proof Sys2Proof.Machine Sys2Proof.Laws

/-! ### A word and the fields of its format -/

/-- A field is a concatenation exactly when its two parts are the parts of it. -/
theorem field_eq_append_iff {n s l m : Nat} {c : BitVec n} {x : BitVec m} {y : BitVec l} :
    c.extractLsb' s (m + l) = x ++ y ↔ c.extractLsb' (s + l) m = x ∧ c.extractLsb' s l = y := by
  rw [← BitVec.extractLsb'_append_extractLsb'_eq_extractLsb' rfl]
  constructor
  · intro h
    have hhigh := congrArg (BitVec.extractLsb' l m) h
    have hlow := congrArg (BitVec.extractLsb' 0 l) h
    rw [BitVec.extractLsb'_append_eq_left, BitVec.extractLsb'_append_eq_left] at hhigh
    rw [BitVec.extractLsb'_append_eq_right, BitVec.extractLsb'_append_eq_right] at hlow
    exact ⟨hhigh, hlow⟩
  · rintro ⟨rfl, rfl⟩
    rfl

/-- A field of one bit is a given bit exactly when the word has it there. -/
theorem field_eq_ofBool_iff {n i : Nat} {c : BitVec n} {b : Bool} :
    c.extractLsb' i 1 = BitVec.ofBool b ↔ c.getLsbD i = b := by
  rw [← ofBool_getLsbD_eq]
  cases c.getLsbD i <;> cases b <;> decide

/-- A word is the field of all its bits. -/
theorem word_eq_iff_field {n : Nat} {c x : BitVec n} : c = x ↔ c.extractLsb' 0 n = x := by
  rw [BitVec.extractLsb'_eq_self]

/-- The fields of format N (30_encoding.md R65). -/
theorem word_eq_fields_n {c : CommandWord} {op : BitVec 4} {res : BitVec 28} :
    c = op ++ res ↔ c.extractLsb' 28 4 = op ∧ c.extractLsb' 0 28 = res :=
  (word_eq_iff_field (n := 4 + 28)).trans field_eq_append_iff

/-- The fields of formats R and W (30_encoding.md R66, R67). -/
theorem word_eq_fields_w {c : CommandWord} {op res : BitVec 4} {reg : RegNum} {val : RegVal} :
    c = op ++ res ++ reg ++ val ↔ c.extractLsb' 28 4 = op ∧ c.extractLsb' 24 4 = res ∧
      c.extractLsb' 16 8 = reg ∧ c.extractLsb' 0 16 = val := by
  refine (word_eq_iff_field (n := 4 + 4 + 8 + 16)).trans ?_
  simp only [field_eq_append_iff, and_assoc]

/-- The fields of format E (30_encoding.md R68). -/
theorem word_eq_fields_e {c : CommandWord} {op : BitVec 4} {res : BitVec 26} {tx rx : Bool} :
    c = op ++ res ++ BitVec.ofBool tx ++ BitVec.ofBool rx ↔ c.extractLsb' 28 4 = op ∧
      c.extractLsb' 2 26 = res ∧ c.getLsbD 1 = tx ∧ c.getLsbD 0 = rx := by
  refine (word_eq_iff_field (n := 4 + 26 + 1 + 1)).trans ?_
  simp only [field_eq_append_iff, field_eq_ofBool_iff, and_assoc]

/-- The fields of format S (30_encoding.md R69). -/
theorem word_eq_fields_s {c : CommandWord} {op : BitVec 4} {res : BitVec 12} {sample : Sample} :
    c = op ++ res ++ sample ↔ c.extractLsb' 28 4 = op ∧ c.extractLsb' 16 12 = res ∧
      c.extractLsb' 0 16 = sample := by
  refine (word_eq_iff_field (n := 4 + 12 + 16)).trans ?_
  simp only [field_eq_append_iff, and_assoc]

/-- The fields of format B (30_encoding.md R70). -/
theorem word_eq_fields_b {c : CommandWord} {op : BitVec 4} {res : BitVec 20} {byte : Byte} :
    c = op ++ res ++ byte ↔ c.extractLsb' 28 4 = op ∧ c.extractLsb' 8 20 = res ∧
      c.extractLsb' 0 8 = byte := by
  refine (word_eq_iff_field (n := 4 + 20 + 8)).trans ?_
  simp only [field_eq_append_iff, and_assoc]

/-- The bytes of a word (20_memory.md R53). -/
theorem word_eq_bytes {c : CommandWord} {b0 b1 b2 b3 : Byte} :
    c = b3 ++ b2 ++ b1 ++ b0 ↔ c.extractLsb' 24 8 = b3 ∧ c.extractLsb' 16 8 = b2 ∧
      c.extractLsb' 8 8 = b1 ∧ c.extractLsb' 0 8 = b0 := by
  refine (word_eq_iff_field (n := 8 + 8 + 8 + 8)).trans ?_
  simp only [field_eq_append_iff, and_assoc]

/-- The bytes of a word, put together again, are the word (20_memory.md R53). -/
theorem decodeBytes_bytesOfWord (c : CommandWord) : decodeBytes (bytesOfWord c) = decode c :=
  congrArg decode (word_eq_bytes.2 ⟨rfl, rfl, rfl, rfl⟩).symm

/-! ### The decoder is the inverse of the encoder -/

/-- A word is read as a command exactly when its reserved bits are 0 (30_encoding.md R76). -/
theorem ifClear_eq_ok_iff {clear : Bool} {f : Format} {i j : Instr} :
    ifClear clear f i = .ok j ↔ clear = true ∧ i = j := by
  cases clear <;> simp [ifClear]

/-- The encoding of a command decodes to it: the fields that were put in are those the decoder reads
(30_encoding.md R65 to R70). -/
theorem decode_of_eq_encode {c : CommandWord} {i : Instr} (h : c = encode i) : decode c = .ok i := by
  cases i with
  | nop =>
    obtain ⟨hop, hres⟩ := word_eq_fields_n.1 h
    simp [decode, ifClear, hop, hres]
  | srst =>
    obtain ⟨hop, hres⟩ := word_eq_fields_n.1 h
    simp [decode, ifClear, hop, hres]
  | rdreg reg =>
    obtain ⟨hop, hres, hreg, hlow⟩ := word_eq_fields_w.1 h
    simp [decode, ifClear, hop, hres, hreg, hlow]
  | wrreg reg val =>
    obtain ⟨hop, hres, hreg, hval⟩ := word_eq_fields_w.1 h
    simp [decode, ifClear, hop, hres, hreg, hval]
  | start rx tx =>
    obtain ⟨hop, hres, htx, hrx⟩ := word_eq_fields_e.1 h
    simp only [decode, ifClear, hop, hres, htx, hrx]
    rfl
  | stop rx tx =>
    obtain ⟨hop, hres, htx, hrx⟩ := word_eq_fields_e.1 h
    simp only [decode, ifClear, hop, hres, htx, hrx]
    rfl
  | rxSample sample =>
    obtain ⟨hop, hres, hsample⟩ := word_eq_fields_s.1 h
    simp [decode, ifClear, hop, hres, hsample]
  | txPush byte =>
    obtain ⟨hop, hres, hbyte⟩ := word_eq_fields_b.1 h
    simp [decode, ifClear, hop, hres, hbyte]
  | txSample =>
    obtain ⟨hop, hres⟩ := word_eq_fields_n.1 h
    simp [decode, ifClear, hop, hres]

/-- A word that decodes to a command is the encoding of it: the checks on the reserved bits leave no other
(30_encoding.md R76). -/
theorem eq_encode_of_decode {c : CommandWord} {i : Instr} (h : decode c = .ok i) : c = encode i := by
  have hop (op : BitVec 4) (heq : (c.extractLsb' 28 4).toNat = op.toNat) : c.extractLsb' 28 4 = op :=
    BitVec.eq_of_toNat_eq heq
  unfold decode at h
  split at h
  next heq =>
    obtain ⟨hres, rfl⟩ := ifClear_eq_ok_iff.1 h
    exact word_eq_fields_n.2 ⟨hop 0x0#4 heq, eq_of_beq hres⟩
  next heq =>
    obtain ⟨hres, rfl⟩ := ifClear_eq_ok_iff.1 h
    exact word_eq_fields_n.2 ⟨hop 0x1#4 heq, eq_of_beq hres⟩
  next heq =>
    obtain ⟨hres, rfl⟩ := ifClear_eq_ok_iff.1 h
    obtain ⟨hmid, hlow⟩ := Bool.and_eq_true_iff.1 hres
    exact word_eq_fields_w.2 ⟨hop 0x2#4 heq, eq_of_beq hmid, rfl, eq_of_beq hlow⟩
  next heq =>
    obtain ⟨hres, rfl⟩ := ifClear_eq_ok_iff.1 h
    exact word_eq_fields_w.2 ⟨hop 0x3#4 heq, eq_of_beq hres, rfl, rfl⟩
  next heq =>
    obtain ⟨hres, rfl⟩ := ifClear_eq_ok_iff.1 h
    exact word_eq_fields_e.2 ⟨hop 0x4#4 heq, eq_of_beq hres, rfl, rfl⟩
  next heq =>
    obtain ⟨hres, rfl⟩ := ifClear_eq_ok_iff.1 h
    exact word_eq_fields_e.2 ⟨hop 0x5#4 heq, eq_of_beq hres, rfl, rfl⟩
  next heq =>
    obtain ⟨hres, rfl⟩ := ifClear_eq_ok_iff.1 h
    exact word_eq_fields_s.2 ⟨hop 0x6#4 heq, eq_of_beq hres, rfl⟩
  next heq =>
    obtain ⟨hres, rfl⟩ := ifClear_eq_ok_iff.1 h
    exact word_eq_fields_b.2 ⟨hop 0x7#4 heq, eq_of_beq hres, rfl⟩
  next heq =>
    obtain ⟨hres, rfl⟩ := ifClear_eq_ok_iff.1 h
    exact word_eq_fields_n.2 ⟨hop 0x8#4 heq, eq_of_beq hres⟩
  next => cases h

/-- Every command's encoding decodes to it. -/
theorem decode_encode (i : Instr) : decode (encode i) = .ok i := decode_of_eq_encode rfl

/-- Settles O1: the decoder and the encoder are inverse to each other, and four bytes hold one word. -/
theorem decodeAndEncodeAgree : Obligations.DecodeAndEncodeAgree :=
  ⟨decode_encode, fun _ _ h => (eq_encode_of_decode h).symm,
    fun i => (decodeBytes_bytesOfWord (encode i)).trans (decode_encode i)⟩

/-! ### The opcode map -/

/-- Every command's encoding stands in the command's own row (30_encoding.md R74). -/
theorem encodingInRow (i : Instr) : EncodingInRow.Statement i := by
  cases i with
  | nop => exact EncodingInRow.nop
  | srst => exact EncodingInRow.srst
  | rdreg reg => exact EncodingInRow.rdreg reg
  | wrreg reg val => exact EncodingInRow.wrreg reg val
  | start rx tx => exact EncodingInRow.start rx tx
  | stop rx tx => exact EncodingInRow.stop rx tx
  | rxSample sample => exact EncodingInRow.rxSample sample
  | txPush byte => exact EncodingInRow.txPush byte
  | txSample => exact EncodingInRow.txSample

/-- A field that lies whole in the mask is the match word's field. -/
theorem field_of_and_eq {c mask pattern : CommandWord} (h : c &&& mask = pattern) (s l : Nat)
    (hmask : mask.extractLsb' s l = BitVec.allOnes l) : c.extractLsb' s l = pattern.extractLsb' s l := by
  rw [← h, BitVec.extractLsb'_and, hmask, BitVec.and_allOnes]

/-- A word that a row matches encodes a command of the row, with the operands of its fields
(30_encoding.md R74). -/
theorem exists_encode_of_row {row : OpcodeRow} (hrow : row ∈ opcodeTable) {c : CommandWord}
    (h : c &&& row.mask = row.pattern) : ∃ i : Instr, i.row = row ∧ c = encode i := by
  simp only [opcodeTable, List.mem_cons, List.not_mem_nil, or_false] at hrow
  have hfield := field_of_and_eq h
  rcases hrow with rfl | rfl | rfl | rfl | rfl | rfl | rfl | rfl | rfl
  · exact ⟨.nop, rfl, word_eq_fields_n.2 ⟨hfield 28 4 rfl, hfield 0 28 rfl⟩⟩
  · exact ⟨.srst, rfl, word_eq_fields_n.2 ⟨hfield 28 4 rfl, hfield 0 28 rfl⟩⟩
  · exact ⟨.rdreg _, rfl,
      word_eq_fields_w.2 ⟨hfield 28 4 rfl, hfield 24 4 rfl, rfl, hfield 0 16 rfl⟩⟩
  · exact ⟨.wrreg _ _, rfl, word_eq_fields_w.2 ⟨hfield 28 4 rfl, hfield 24 4 rfl, rfl, rfl⟩⟩
  · exact ⟨.start _ _, rfl, word_eq_fields_e.2 ⟨hfield 28 4 rfl, hfield 2 26 rfl, rfl, rfl⟩⟩
  · exact ⟨.stop _ _, rfl, word_eq_fields_e.2 ⟨hfield 28 4 rfl, hfield 2 26 rfl, rfl, rfl⟩⟩
  · exact ⟨.rxSample _, rfl, word_eq_fields_s.2 ⟨hfield 28 4 rfl, hfield 16 12 rfl, rfl⟩⟩
  · exact ⟨.txPush _, rfl, word_eq_fields_b.2 ⟨hfield 28 4 rfl, hfield 8 20 rfl, rfl⟩⟩
  · exact ⟨.txSample, rfl, word_eq_fields_n.2 ⟨hfield 28 4 rfl, hfield 0 28 rfl⟩⟩

/-- A row matches a word exactly when the decoder reads a command of the row from it (30_encoding.md R74). -/
theorem row_matches_iff {row : OpcodeRow} (hrow : row ∈ opcodeTable) (c : CommandWord) :
    c &&& row.mask = row.pattern ↔ ∃ i, decode c = .ok i ∧ i.row = row := by
  constructor
  · intro h
    obtain ⟨i, hi, rfl⟩ := exists_encode_of_row hrow h
    exact ⟨i, decode_encode i, hi⟩
  · rintro ⟨i, hdec, rfl⟩
    obtain ⟨-, hmatch⟩ := encodingInRow i
    rwa [eq_encode_of_decode hdec]

/-- Settles O2: two rows that match one word are both the row of the one command it decodes to. -/
theorem decodeFollowsOpcodeMap : Obligations.DecodeFollowsOpcodeMap := by
  refine ⟨fun row hrow c => row_matches_iff hrow c, fun c r₁ hr₁ r₂ hr₂ h₁ h₂ => ?_⟩
  obtain ⟨i, hi, rfl⟩ := (row_matches_iff hr₁ c).1 h₁
  obtain ⟨j, hj, rfl⟩ := (row_matches_iff hr₂ c).1 h₂
  rw [hi] at hj
  cases hj
  rfl

/-- Settles O4: each word is the encoding of its command. -/
theorem writtenWordsDecode : Obligations.WrittenWordsDecode :=
  ⟨decode_encode .nop, decode_encode .srst, decode_encode (.rdreg 0x37#8),
    decode_encode (.wrreg 0x11#8 0xC000#16), decode_encode (.start false true),
    decode_encode (.stop true true), decode_encode (.rxSample 0xFC18#16), decode_encode (.txPush 0x4B#8),
    decode_encode .txSample⟩

/-! ### The pseudo-commands -/

/-- The numbers of a filter's three coefficients as high halves of WRREG words, opcode 0x3 and reserved bits 0
before the number (30_encoding.md R67, 10_state.md R29). -/
theorem wrreg_high_coefNum : ∀ f : Fin 4,
    0x3#4 ++ 0#4 ++ coefNum f 0 = BitVec.ofNat 16 (0x3010 + 3 * f.val) ∧
    0x3#4 ++ 0#4 ++ coefNum f 1 = BitVec.ofNat 16 (0x3011 + 3 * f.val) ∧
    0x3#4 ++ 0#4 ++ coefNum f 2 = BitVec.ofNat 16 (0x3012 + 3 * f.val) := by decide

/-- Settles O57: WRCOEF by the numbers of its coefficients; every other expansion is its definition, the words
evaluated. -/
theorem pseudoCommandsExpand : Obligations.PseudoCommandsExpand := by
  refine ⟨fun _ => rfl, fun f b0 b1 a2 => ?_, fun _ _ => rfl, rfl, fun _ => rfl, fun _ => rfl⟩
  obtain ⟨h0, h1, h2⟩ := wrreg_high_coefNum f
  simp only [expandPseudo, List.map_cons, List.map_nil, encode, h0, h1, h2]

end Sys2Proof.Proofs
end

section
/-! The filter bank: the circular histories of FILTER read as a delay line, and the slots a receive sample runs
(41_filter_bank.md R81 to R88). -/

namespace Sys2Proof.Proofs

open Sys2Proof Sys2Proof.Machine Sys2Proof.Laws

/-! ### FILTER -/

/-- The entry FILTER writes at p is one step back when the pointer has advanced (R84). -/
theorem set_getElem_lastSlot (v : Vector FiltWord 3) (p : Fin 3) (x : FiltWord) :
    (v.set p.val x)[(lastSlot (nextSlot p)).val] = x := by
  obtain ⟨hlast, -, -, -⟩ := history_slots p
  simp [hlast]

/-- The entry that was one step back is two steps back when the pointer has advanced, and FILTER has not
written to it (R84). -/
theorem set_getElem_nextSlot (v : Vector FiltWord 3) (p : Fin 3) (x : FiltWord) :
    (v.set p.val x)[(nextSlot (nextSlot p)).val] = v[(lastSlot p).val] := by
  obtain ⟨-, hnext, hne, -⟩ := history_slots p
  simp only [hnext]
  exact Vector.getElem_set_ne _ _ fun h => hne (Fin.ext h.symm)

/-- The output of FILTER is the difference equation on the entries one and two steps back (R83, R86). -/
theorem toInt_filterStep (b0 b1 a2 : Int) (fs : FilterState) (x : FiltWord) :
    (filterStep b0 b1 a2 fs x).2.toInt =
      wrap32 ((b0 * x.toInt) / 2 ^ 14 + (b1 * (fs.xin[(lastSlot fs.p).val]).toInt) / 2 ^ 14 +
        (b0 * (fs.xin[(nextSlot fs.p).val]).toInt) / 2 ^ 14 -
        (b1 * (fs.yout[(lastSlot fs.p).val]).toInt) / 2 ^ 14 -
        (a2 * (fs.yout[(nextSlot fs.p).val]).toInt) / 2 ^ 14) :=
  toInt_ofInt_32 _

/-- From every filter state the outputs are those of the delay line that holds the entries one and two steps
back. -/
theorem map_toInt_filterRun (b0 b1 a2 : Int) (fs : FilterState) (xs : List FiltWord) :
    (filterRun b0 b1 a2 fs xs).map BitVec.toInt =
      delayLineRun b0 b1 a2 (fs.xin[(lastSlot fs.p).val]).toInt (fs.xin[(nextSlot fs.p).val]).toInt
        (fs.yout[(lastSlot fs.p).val]).toInt (fs.yout[(nextSlot fs.p).val]).toInt
        (xs.map BitVec.toInt) := by
  induction xs generalizing fs with
  | nil => rfl
  | cons x xs ih =>
    simp only [filterRun, List.map_cons, delayLineRun, ih, filterStep_p, filterStep_xin, filterStep_yout,
      set_getElem_lastSlot, set_getElem_nextSlot, toInt_filterStep]

/-- Settles O25: in the cleared state the entries one and two steps back are 0. -/
theorem filterIsDelayLine : Obligations.FilterIsDelayLine :=
  fun b0 b1 a2 xs => map_toInt_filterRun b0 b1 a2 FilterState.reset xs

/-! ### The slots of the receive channel -/

/-- The coefficients of slot f stand from index 3·f (10_state.md R29). -/
theorem coefOf_eq_getD (t : Tables) (f : Fin 4) (k : Fin 3) :
    coefOf t f k = (t.coef.toList.getD (3 * f.val + k.val) 0#16).toInt := by
  have hlt : 3 * f.val + k.val < 12 := by omega
  simp [coefOf, List.getD_eq_getElem?_getD, hlt]

/-- FILTER of a slot, with its three coefficients by their indices (R82). -/
theorem filterSlot_eq (t : Tables) (f : Fin 4) (fs : FilterState) (x : FiltWord) :
    filterSlot t f fs x =
      filterStep (t.coef.toList.getD (3 * f.val) 0#16).toInt (t.coef.toList.getD (3 * f.val + 1) 0#16).toInt
        (t.coef.toList.getD (3 * f.val + 2) 0#16).toInt fs x := by
  simp only [filterSlot, coefOf_eq_getD]
  rfl

/-- The first index of each tone's coefficients: slots 2·RX_CH and 2·RX_CH + 1 (R80, R81). -/
theorem three_mul_slotOf (channel tone : Bool) :
    3 * (slotOf channel tone).val = (if channel then 6 else 0) + if tone then 3 else 0 := by
  cases channel <;> cases tone <;> rfl

/-- The input has the value of the sample (R85). -/
theorem toInt_inputOf (sample : Sample) : (inputOf sample).toInt = sample.toInt :=
  BitVec.toInt_signExtend_of_le (by omega)

/-- Settles O26: each tone's slot is the three coefficients from its first index. -/
theorem sampleRunsChannelSlots : Obligations.SampleRunsChannelSlots := by
  intro cfg tab rx sample c co space mark
  have hspace : filterSlot tab (slotOf cfg.rxCh false) rx.fs.space (inputOf sample) = space := by
    rw [filterSlot_eq, three_mul_slotOf]
    rfl
  have hmark : filterSlot tab (slotOf cfg.rxCh true) rx.fs.mark (inputOf sample) = mark := by
    rw [filterSlot_eq, three_mul_slotOf]
    rfl
  refine ⟨toInt_inputOf sample, ?_, ?_, filterAndEnergy_cur _ _ _ _, filterAndEnergy_dec _ _ _ _⟩ <;>
    simp only [filterAndEnergy, hspace, hmark]

end Sys2Proof.Proofs
end

section
/-! The energy estimator: the circular window of ENERGY read as the last W squares, oldest first, and from this
its sum and its primed flag (42_energy.md R93, R97). -/

namespace Sys2Proof.Proofs

open Sys2Proof Sys2Proof.Machine Sys2Proof.Laws

/-! ### The squares given to an estimator -/

/-- Everything a window of size w has held, oldest first: the w zeros of the cleared state, then the squares of
the outputs. Its last w entries are those in the window. -/
def squareHistory (w : Nat) (ys : List FiltWord) : List Energy :=
  List.replicate w 0#64 ++ ys.map squareOf

@[simp] theorem length_squareHistory (w : Nat) (ys : List FiltWord) :
    (squareHistory w ys).length = w + ys.length := by
  simp [squareHistory]

@[simp] theorem squareHistory_append (w : Nat) (ys : List FiltWord) (y : FiltWord) :
    squareHistory w (ys ++ [y]) = squareHistory w ys ++ [squareOf y] := by
  simp [squareHistory]

/-- The last w entries of the history total the squares of the last w outputs, or of all of them when fewer. -/
theorem sum_drop_squareHistory (w : Nat) (ys : List FiltWord) :
    (((squareHistory w ys).drop ys.length).map BitVec.toNat).sum = squareTotal (ys.drop (ys.length - w)) := by
  simp [squareHistory, squareTotal, List.drop_append, ← List.map_drop, Function.comp_def, toNat_squareOf]

/-! ### The window -/

/-- The estimator after the outputs ys: the pointer has gone round with them, entry i of the history stands at
i mod w while it is one of the last w, and the sum is that of these w entries modulo 2^64 (R93, R94, R97). -/
structure WindowHolds (w : Nat) (ys : List FiltWord) (es : EnergyState) : Prop where
  ptr : es.ptr.val = ys.length % w
  primed : es.primed = decide (w ≤ ys.length)
  win : ∀ i, ys.length ≤ i → i < ys.length + w → es.win[i % w]? = (squareHistory w ys)[i]?
  sum : es.sum.toNat = (((squareHistory w ys).drop ys.length).map BitVec.toNat).sum % 2 ^ 64

/-- The cleared estimator holds w zeros (10_state.md R44). -/
theorem windowHolds_reset {w : Nat} (hlo : 1 ≤ w) (hhi : w ≤ 64) : WindowHolds w [] EnergyState.reset where
  ptr := by simp [EnergyState.reset]
  primed := by simp [EnergyState.reset]; omega
  win i _ hi := by
    have hi : i < w := by simpa using hi
    have hmod : i % w < 64 := (Nat.mod_lt i hlo).trans_le hhi
    simp [EnergyState.reset, squareHistory, hi, hmod]
  sum := by simp [EnergyState.reset, squareHistory]

/-- The pointer goes round a legal window (R94). -/
theorem energyStep_ptr_mod {w n : Nat} {es : EnergyState} (hlo : 1 ≤ w) (hhi : w ≤ 64)
    (hptr : es.ptr.val = n % w) (y : FiltWord) : (energyStep w es y).ptr.val = (n + 1) % w := by
  have hlt : n % w < w := Nat.mod_lt n hlo
  rw [energyStep_ptr, hptr, ← Nat.mod_add_mod n w 1]
  by_cases hwrap : w ≤ n % w + 1
  · have hlast : n % w + 1 = w := by omega
    simp [hlast]
  · have hnext : n % w + 1 < w := by omega
    rw [if_neg hwrap, Fin.val_ofNat, Nat.mod_eq_of_lt hnext, Nat.mod_eq_of_lt (hnext.trans_le hhi)]

/-- The estimator is primed by the update that wraps the pointer for the first time (R93). -/
theorem energyStep_primed_eq {w n : Nat} {es : EnergyState} (hptr : es.ptr.val = n % w)
    (hprimed : es.primed = decide (w ≤ n)) (y : FiltWord) :
    (energyStep w es y).primed = decide (w ≤ n + 1) := by
  rw [energyStep_primed, hptr, hprimed, ← Bool.decide_or, decide_eq_decide]
  by_cases hfull : w ≤ n
  · omega
  · rw [Nat.mod_eq_of_lt (by omega)]
    omega

/-- The entry ENERGY replaces is the oldest of the last w (R90). -/
theorem WindowHolds.oldest {w : Nat} {ys : List FiltWord} {es : EnergyState} (h : WindowHolds w ys es)
    (hlt : ys.length < (squareHistory w ys).length) :
    es.win[es.ptr.val] = (squareHistory w ys)[ys.length] := by
  have hwin := h.win ys.length le_rfl (by simpa [Nat.add_comm] using hlt)
  rw [← h.ptr, Vector.getElem?_eq_getElem es.ptr.isLt, List.getElem?_eq_getElem hlt] at hwin
  exact Option.some.inj hwin

/-- Fewer than w places on, and not none, is another place of the circular window. -/
theorem mod_ne_mod_of_lt_add {w n i : Nat} (hgt : n < i) (hlt : i < n + w) : n % w ≠ i % w := fun heq => by
  have hdiff := Nat.sub_mod_eq_zero_of_mod_eq heq.symm
  rw [Nat.mod_eq_of_lt (by omega)] at hdiff
  omega

/-- The new square takes the place of the oldest entry, and the other entries stay (R90, R94). -/
theorem WindowHolds.energyStep_win_eq {w : Nat} {ys : List FiltWord} {es : EnergyState}
    (h : WindowHolds w ys es) (y : FiltWord) {i : Nat} (hgt : ys.length < i) (hle : i ≤ ys.length + w) :
    (energyStep w es y).win[i % w]? = (squareHistory w (ys ++ [y]))[i]? := by
  rw [energyStep_win, squareHistory_append]
  rcases hle.lt_or_eq with hkept | rfl
  · have hne : es.ptr.val ≠ i % w := h.ptr ▸ mod_ne_mod_of_lt_add hgt hkept
    have hold : i < (squareHistory w ys).length := by rw [length_squareHistory]; omega
    rw [Vector.getElem?_set_ne _ hne, h.win i hgt.le hkept, List.getElem?_append_left hold]
  · have hplace : (ys.length + w) % w = es.ptr.val := by rw [Nat.add_mod_right, h.ptr]
    rw [hplace, Vector.getElem?_set_self, Nat.add_comm, ← length_squareHistory, List.getElem?_concat_length]

/-- The sum loses the oldest entry and gains the new square, modulo 2^64 (R92). -/
theorem WindowHolds.energyStep_sum_eq {w : Nat} {ys : List FiltWord} {es : EnergyState} (hlo : 1 ≤ w)
    (h : WindowHolds w ys es) (y : FiltWord) :
    (energyStep w es y).sum.toNat =
      (((squareHistory w (ys ++ [y])).drop (ys.length + 1)).map BitVec.toNat).sum % 2 ^ 64 := by
  have hlt : ys.length + 1 ≤ (squareHistory w ys).length := by rw [length_squareHistory]; omega
  have hold := (es.win[es.ptr.val]).isLt
  have hsum := h.sum
  rw [List.drop_eq_getElem_cons hlt, ← h.oldest hlt, List.map_cons, List.sum_cons] at hsum
  rw [energyStep_sum, BitVec.toNat_add, BitVec.toNat_sub, squareHistory_append,
    List.drop_append_of_le_length hlt, List.map_append, List.sum_append, List.map_singleton,
    List.sum_singleton]
  omega

/-- ENERGY keeps the window, one output on (R90). -/
theorem windowHolds_energyStep {w : Nat} {ys : List FiltWord} {es : EnergyState} (hlo : 1 ≤ w) (hhi : w ≤ 64)
    (h : WindowHolds w ys es) (y : FiltWord) : WindowHolds w (ys ++ [y]) (energyStep w es y) where
  ptr := by rw [List.length_append]; exact energyStep_ptr_mod hlo hhi h.ptr y
  primed := by rw [List.length_append]; exact energyStep_primed_eq h.ptr h.primed y
  win i hge hlt := by
    rw [List.length_append, List.length_singleton] at hge hlt
    exact h.energyStep_win_eq y hge (by omega)
  sum := by rw [List.length_append]; exact h.energyStep_sum_eq hlo y

/-- Every run of ENERGY from the cleared state keeps the window. -/
theorem windowHolds_energyRun {w : Nat} (hlo : 1 ≤ w) (hhi : w ≤ 64) (ys : List FiltWord) :
    WindowHolds w ys (energyRun w EnergyState.reset ys) := by
  induction ys using List.reverseRecOn with
  | nil => exact windowHolds_reset hlo hhi
  | append_singleton ys y ih =>
    rw [energyRun_append]
    exact windowHolds_energyStep hlo hhi ih y

/-- Settles O27: the sum is that of the last W entries of the history. -/
theorem energyIsWindowSum : Obligations.EnergyIsWindowSum := by
  intro w ys hlo hhi
  have h := windowHolds_energyRun hlo hhi ys
  exact ⟨h.primed, by rw [h.sum, sum_drop_squareHistory]⟩

end Sys2Proof.Proofs
end

section
/-! The discriminator: the exact step of the counter, runs of samples that favour one tone, and the receive
pipeline with the counter held at 0 (43_discriminator.md R99 to R103). -/

namespace Sys2Proof.Proofs

open Sys2Proof Sys2Proof.Machine Sys2Proof.Laws

/-! ### DISCRIMINATE -/

/-- Settles O28: the exact step and its clamp, and the range this gives. -/
theorem discriminatorCountsAndSaturates : Obligations.DiscriminatorCountsAndSaturates := fun h cur a b =>
  ⟨levelOk_discriminate h cur a b, toInt_discriminate h cur a b⟩

/-- Within the bound the clamp does nothing (R99). -/
theorem toInt_discriminate_of_within {h : BitVec 15} {cur : Level} {a b : Energy}
    (hlo : -(h.toNat : Int) ≤ cur.toInt + sgn3 a.toNat b.toNat)
    (hhi : cur.toInt + sgn3 a.toNat b.toNat ≤ h.toNat) :
    (discriminate h cur a b).toInt = cur.toInt + sgn3 a.toNat b.toNat := by
  rw [toInt_discriminate, clamp, max_eq_left hlo, min_eq_left hhi]

/-- With H = 0 the level is 0 (R102). -/
theorem discriminate_zero (cur : Level) (a b : Energy) : discriminate 0#15 cur a b = 0#16 := by
  obtain ⟨hlo, hhi⟩ := levelOk_discriminate 0#15 cur a b
  exact BitVec.eq_of_toInt_eq (le_antisymm hhi hlo)

/-! ### Runs of samples that favour one tone -/

/-- The favoured tone moves the counter by at most one (R99). -/
theorem sgn3_cases (a b : Nat) : sgn3 a b = 1 ∨ sgn3 a b = -1 ∨ sgn3 a b = 0 := by
  unfold sgn3
  split
  · exact .inl rfl
  · split
    · exact .inr (.inl rfl)
    · exact .inr (.inr rfl)

/-- Samples that all favour the same tone move the counter by the same step each, as long as the end of the run
is within the bound: every counter on the way lies between the first and the last, so none is clamped (R103). -/
theorem toInt_levelRun {h : BitVec 15} {v : Int} {es : List (Energy × Energy)}
    (hv : ∀ e ∈ es, sgn3 e.1.toNat e.2.toNat = v) {cur : Level} (hcur : LevelOk h cur)
    (hlo : -(h.toNat : Int) ≤ cur.toInt + es.length * v) (hhi : cur.toInt + es.length * v ≤ h.toNat) :
    (levelRun h cur es).toInt = cur.toInt + es.length * v := by
  induction es generalizing cur with
  | nil => simp [levelRun]
  | cons e es ih =>
    obtain ⟨hfirst, hrest⟩ := List.forall_mem_cons.1 hv
    rw [List.length_cons, Nat.cast_succ, add_mul, one_mul] at hlo hhi ⊢
    obtain ⟨hcurLo, hcurHi⟩ := hcur
    have hwithin : -(h.toNat : Int) ≤ cur.toInt + v ∧ cur.toInt + v ≤ h.toNat := by
      rcases hfirst ▸ sgn3_cases e.1.toNat e.2.toNat with rfl | rfl | rfl <;> omega
    have hstep : (discriminate h cur e.1 e.2).toInt = cur.toInt + v :=
      hfirst ▸ toInt_discriminate_of_within (hfirst ▸ hwithin.1) (hfirst ▸ hwithin.2)
    have hrun := ih hrest (levelOk_discriminate h cur e.1 e.2) (by omega) (by omega)
    rw [levelRun, hrun, hstep]
    ring

/-- With LEVEL_T = 0 the bit read is 1 exactly when the counter is not negative (R105). -/
theorem bitOfLevel_zero_iff {level : Level} : bitOfLevel 0#16 level = true ↔ 0 ≤ level.toInt := bitOfLevel_true

/-- Settles O29: from one bound to the other the counter moves by the same step at every sample. -/
theorem debounceCounts : Obligations.DebounceCounts := by
  intro h cur es hlen
  constructor
  · intro hcur hspace
    have hv : ∀ e ∈ es, sgn3 e.1.toNat e.2.toNat = -1 := fun e he => by
      rw [sgn3, if_neg (hspace e he).not_gt, if_pos (hspace e he)]
    have hrun := toInt_levelRun hv (cur := cur) (h := h) (by omega) (by omega) (by omega)
    rw [bitOfLevel_zero_iff, hrun]
    omega
  · intro hcur hmark
    have hv : ∀ e ∈ es, sgn3 e.1.toNat e.2.toNat = 1 := fun e he => by
      rw [sgn3, if_pos (hmark e he)]
    have hrun := toInt_levelRun hv (cur := cur) (h := h) (by omega) (by omega) (by omega)
    rw [bitOfLevel_zero_iff, hrun]
    omega

/-! ### The pipeline with H = 0 -/

/-- With the countdown not armed and no falling edge, DECODE takes the level into last and reports nothing
(44_decoder.md R107, R108). -/
theorem decodeLevel_unarmed {cfg : ConfigRegs} {d : DecoderState} {level : Level} (hoff : d.off.toInt ≤ 0)
    (hedge : ¬(level.toInt < cfg.levelT.toInt ∧ cfg.levelT.toInt ≤ d.last.toInt)) :
    decodeLevel cfg d level = ({ d with last := level }, quietResult) := by
  simp only [decodeLevel, countDown_unarmed cfg d level hoff, armOnEdge_none cfg d level (.inr hedge)]

/-- A level equal to last is no falling edge, and leaves the decoder as it was. -/
theorem decodeLevel_unarmed_last {cfg : ConfigRegs} {d : DecoderState} (hoff : d.off.toInt ≤ 0) :
    decodeLevel cfg d d.last = (d, quietResult) :=
  decodeLevel_unarmed hoff fun ⟨hbelow, habove⟩ => absurd habove hbelow.not_ge

/-- An OK response with data 0 and neither BV nor FE among its flags, read as the fields of the response
(30_encoding.md R72, R73). -/
theorem responseWord_ok_quiet {flags : BitVec 12} (hbv : flags.getLsbD 0 = false)
    (hfe : flags.getLsbD 1 = false) :
    statusField (responseWord .ok flags 0#16) = 0 ∧ dataField (responseWord .ok flags 0#16) = 0#16 ∧
      (responseWord .ok flags 0#16).getLsbD 16 = false ∧ (responseWord .ok flags 0#16).getLsbD 17 = false :=
  ⟨statusField_responseWord _ _ _, dataField_responseWord _ _ _,
    (getLsbD_responseWord_flags _ _ _ 16 (by decide) (by decide)).trans hbv,
    (getLsbD_responseWord_flags _ _ _ 17 (by decide) (by decide)).trans hfe⟩

/-- Settles O30: a sample ends at one of the two gates, or the level is 0 and so equal to last. -/
theorem zeroHysteresisEmitsNothing : Obligations.ZeroHysteresisEmitsNothing := by
  intro s t sample hhyst hen hcur hdec hexec
  rcases execRxSample_cases hexec with ⟨hdis, -⟩ | ⟨-, rx, rfl, hcases⟩
  · exact absurd hen (by simp [hdis])
  · rcases hcases with ⟨-, rfl⟩ | ⟨-, -, rfl⟩ | ⟨-, -, d, hd, rfl⟩
    · exact ⟨hcur, rfl, rfl, rfl, _, rfl, responseWord_ok_quiet (by decide) (by decide)⟩
    · exact ⟨hcur, rfl, rfl, rfl, _, rfl, responseWord_ok_quiet (by decide) (by decide)⟩
    · have hlevel : levelOf s.cfg (filterAndEnergy s.cfg s.tab s.rx (inputOf sample)) = s.rx.dec.last := by
        rw [levelOf, hhyst, discriminate_zero, hdec]
      have hoff : s.rx.dec.off.toInt ≤ 0 := by rw [hdec]; decide
      rw [filterAndEnergy_dec, hlevel, decodeLevel_unarmed_last hoff] at hd
      subst hd
      exact ⟨by simp [hlevel, hdec], rfl, Bool.or_false _, Bool.or_false _, _, rfl,
        responseWord_ok_quiet (flags := decodeFlags quietResult) (by decide) (by decide)⟩

end Sys2Proof.Proofs
end

section
/-! One step of DECODE: its edge test after each of the three things the countdown can do, and from these the
statements about single steps (44_decoder.md R107 to R115, R121). -/

namespace Sys2Proof.Proofs

open Sys2Proof Sys2Proof.Machine Sys2Proof.Laws

/-! ### DECODE -/

/-- With bit = 0 after the countdown part, a falling edge arms it with OFFSET (R107). -/
theorem decodeLevel_of_edge {cfg : ConfigRegs} {d : DecoderState} {level : Level}
    (hbit : (countDown cfg d level).1.bit = 0#5) (hbelow : level.toInt < cfg.levelT.toInt)
    (habove : cfg.levelT.toInt ≤ d.last.toInt) :
    decodeLevel cfg d level =
      ({ (countDown cfg d level).1 with off := cfg.offset, last := level }, (countDown cfg d level).2) := by
  rw [decodeLevel, armOnEdge_edge cfg _ level hbit hbelow (by rwa [countDown_last])]

/-- Within a frame, or without a falling edge, DECODE is its countdown part, and takes the level into last
(R107, R121). -/
theorem decodeLevel_of_no_edge {cfg : ConfigRegs} {d : DecoderState} {level : Level}
    (h : (countDown cfg d level).1.bit ≠ 0#5 ∨
      ¬(level.toInt < cfg.levelT.toInt ∧ cfg.levelT.toInt ≤ d.last.toInt)) :
    decodeLevel cfg d level = ({ (countDown cfg d level).1 with last := level }, (countDown cfg d level).2) := by
  rw [decodeLevel, armOnEdge_none cfg _ level (by rwa [countDown_last])]

/-- Between sampling instants, within a frame or without a falling edge, a step only counts down (R108,
R121). -/
theorem decodeLevel_counting {cfg : ConfigRegs} {d : DecoderState} {level : Level} (hoff : 2 ≤ d.off.toInt)
    (h : d.bit ≠ 0#5 ∨ ¬(level.toInt < cfg.levelT.toInt ∧ cfg.levelT.toInt ≤ d.last.toInt)) :
    decodeLevel cfg d level = ({ d with off := d.off - 1#16, last := level }, quietResult) := by
  have hcount := countDown_counting cfg d level hoff
  rw [decodeLevel_of_no_edge (by rwa [hcount]), hcount]

/-- A sampling instant at which the bit is refused reports a framing error and nothing else (R115). -/
theorem countDown_refused {cfg : ConfigRegs} {d : DecoderState} {level : Level} (hoff : d.off = 1#16)
    (h : acceptBit cfg.ser { d with off := 0#16 } (bitOfLevel cfg.levelT level) = none) :
    countDown cfg d level = (decoderIdle d, { quietResult with fe := true }) := by
  rw [countDown_instant cfg d level hoff, sampleBit, h]
  rfl

/-- Settles O31: the three cases of the edge test. -/
theorem fallingEdgeArms : Obligations.FallingEdgeArms := by
  intro cfg d level
  refine ⟨fun hbit hbelow habove => ?_, fun h => ?_, fun hoff hbit h => ?_⟩
  · rw [decodeLevel_of_edge hbit hbelow habove]
  · rw [decodeLevel_of_no_edge (h.imp_right fun h ⟨hbelow, habove⟩ => by omega)]
  · rw [decodeLevel_unarmed (by rw [hoff]; decide) fun ⟨hbelow, habove⟩ => by omega, ← hoff, ← hbit]
    rfl

/-- Settles O32: in a frame the edge test does nothing, and the countdown is above 1. -/
theorem frameInProgressOnlyCountsDown : Obligations.FrameInProgressOnlyCountsDown := by
  intro cfg d level hbit hoff
  rw [decodeLevel_counting hoff (.inl ((toNat_pos_iff d.bit).1 hbit))]
  exact ⟨rfl, toInt_sub_one d.off (by omega), rfl⟩

/-- Settles O33: the bit is refused, and the idle decoder then takes the edge test. -/
theorem framingErrorReturnsToIdle : Obligations.FramingErrorReturnsToIdle := by
  intro cfg d level hoff hbad
  have hrefused : acceptBit cfg.ser { d with off := 0#16 } (bitOfLevel cfg.levelT level) = none := by
    rw [acceptBit_none, bitOfLevel_true, bitOfLevel_false]
    refine hbad.imp_right fun ⟨hstop, hlow⟩ => ⟨hstop, le_trans ?_ hstop, hlow⟩
    rw [SerCfg.stopStart]
    omega
  have hcount := countDown_refused hoff hrefused
  refine ⟨by rw [decodeLevel_result, hcount]; rfl, ?_⟩
  split
  next hedge => rw [decodeLevel_of_edge (by rw [hcount]; rfl) hedge.1 hedge.2, hcount]; rfl
  next hedge => rw [decodeLevel_of_no_edge (.inr hedge), hcount]; rfl

end Sys2Proof.Proofs
end

section
/-! RX_SAMPLE: what it answers at each of its gates (44_decoder.md R117 to R120). -/

namespace Sys2Proof.Proofs

open Sys2Proof Sys2Proof.Machine Sys2Proof.Laws

/-! ### RX_SAMPLE -/

/-- The low-signal gate compares the exact sum of the energies with THRESH read from its four registers
(44_decoder.md R119). -/
theorem lowSignal_iff {cfg : ConfigRegs} {rx : RxSession} :
    lowSignal cfg rx = true ↔ rx.es.space.sum.toNat + rx.es.mark.sum.toNat <
      cfg.thresh[0].toNat + 2 ^ 16 * cfg.thresh[1].toNat + 2 ^ 32 * cfg.thresh[2].toNat +
        2 ^ 48 * cfg.thresh[3].toNat := by
  rw [lowSignal, decide_eq_true_iff, toNat_threshOf]

/-- Not primed, the sample is answered NP (44_decoder.md R118). -/
theorem execRxSample_notPrimed {s : State} {sample : Sample} (hen : s.ctl.rxEn = true)
    (hprimed : (filterAndEnergy s.cfg s.tab s.rx (inputOf sample)).es.space.primed = false) :
    execRxSample sample s =
      .next (State.answered { s with rx := filterAndEnergy s.cfg s.tab s.rx (inputOf sample) }
        (responseWord .ok (flagNP true) 0#16)) := by
  rw [execRxSample, if_neg (by simp [hen])]
  exact if_pos (by simp [hprimed])

/-- Primed and below the threshold, the sample is answered LS (44_decoder.md R119). -/
theorem execRxSample_lowSignal {s : State} {sample : Sample} (hen : s.ctl.rxEn = true)
    (hprimed : (filterAndEnergy s.cfg s.tab s.rx (inputOf sample)).es.space.primed = true)
    (hlow : lowSignal s.cfg (filterAndEnergy s.cfg s.tab s.rx (inputOf sample)) = true) :
    execRxSample sample s =
      .next (State.answered
        { s with rx := filterAndEnergy s.cfg s.tab s.rx (inputOf sample), ctl := { s.ctl with lsSeen := true } }
        (responseWord .ok (flagLS true) 0#16)) := by
  rw [execRxSample, if_neg (by simp [hen])]
  exact (if_neg (by simp [hprimed])).trans (if_pos hlow)

/-- Past both gates, the sample advances the discriminator and the decoder (44_decoder.md R117). -/
theorem execRxSample_advances {s : State} {sample : Sample} (hen : s.ctl.rxEn = true)
    (hprimed : (filterAndEnergy s.cfg s.tab s.rx (inputOf sample)).es.space.primed = true)
    (hlow : ¬lowSignal s.cfg (filterAndEnergy s.cfg s.tab s.rx (inputOf sample)) = true) :
    execRxSample sample s =
      advanceDecoder { s with rx := filterAndEnergy s.cfg s.tab s.rx (inputOf sample) } := by
  rw [execRxSample, if_neg (by simp [hen])]
  exact (if_neg (by simp [hprimed])).trans (if_neg hlow)

/-- The response of a sample that reached DECODE, from the status down (30_encoding.md R72, R73). -/
theorem responseWord_decodeFlags (r : DecodeResult) :
    responseWord .ok (decodeFlags r) (r.out.setWidth 16) =
      0#10 ++ BitVec.ofBool r.rp ++ BitVec.ofBool r.pe ++ 0#2 ++ BitVec.ofBool r.fe ++ BitVec.ofBool r.bv ++
        0#8 ++ r.out := by
  have hout := r.out.isLt
  apply BitVec.eq_of_toNat_eq
  rw [responseWord, decodeFlags_eq, setWidth_eq_zero_append 8]
  simp only [toNat_append_eq, Status.code, BitVec.toNat_ofNat]
  omega

/-- Settles O36: the three outcomes, each under its gates. -/
theorem rxSampleRunsPipeline : Obligations.RxSampleRunsPipeline := by
  intro s sample hen
  refine ⟨fun hprimed => execRxSample_notPrimed hen hprimed, fun hprimed hlow =>
    execRxSample_lowSignal hen hprimed (lowSignal_iff.2 hlow), fun hprimed hlow => ?_⟩
  refine (execRxSample_advances hen hprimed fun h => hlow.not_gt (lowSignal_iff.1 h)).trans ?_
  rw [← responseWord_decodeFlags]
  rfl

/-! ### The contents of a response -/

/-- The responses of the two gates (44_decoder.md R118, R119). -/
def rxGateResponses : List ResponseWord :=
  [responseWord .ok (flagNP true) 0#16, responseWord .ok (flagLS true) 0#16]

/-- The response of an enabled session is that of a gate, or holds what DECODE returns (44_decoder.md R117). -/
theorem execRxSample_response {s t : State} {sample : Sample} (hen : s.ctl.rxEn = true)
    (h : execRxSample sample s = .next t) :
    (∃ p ∈ rxGateResponses, t.responses = s.responses ++ [p]) ∨
    ∃ rx r, rx = filterAndEnergy s.cfg s.tab s.rx (inputOf sample) ∧
      r = (decodeLevel s.cfg rx.dec (levelOf s.cfg rx)).2 ∧
      t.responses = s.responses ++ [responseWord .ok (decodeFlags r) (r.out.setWidth 16)] := by
  rcases execRxSample_cases h with ⟨hdis, -⟩ | ⟨-, rx, hrx, ⟨-, rfl⟩ | ⟨-, -, rfl⟩ | ⟨-, -, d, rfl, rfl⟩⟩
  · exact absurd hen (by simp [hdis])
  · exact .inl ⟨_, .head _, rfl⟩
  · exact .inl ⟨_, .tail _ (.head _), rfl⟩
  · exact .inr ⟨rx, _, hrx, rfl, rfl⟩

/-- A gate's response is OK with data 0, and holds one of NP and LS and no other flag (44_decoder.md R118,
R119). -/
theorem rxGateResponses_contents {p : ResponseWord} (hp : p ∈ rxGateResponses) :
    statusField p = 0 ∧ ¬(p.getLsbD 18 = true ∧ p.getLsbD 19 = true) ∧ p.getLsbD 16 = false ∧
      p.getLsbD 17 = false ∧ p.getLsbD 20 = false ∧ p.getLsbD 21 = false ∧ dataField p = 0#16 := by
  obtain rfl | rfl := List.mem_pair.1 hp
  · decide
  · decide

/-- The flags of a sample that reached DECODE, by their positions in FLAGS (30_encoding.md R73). -/
theorem getLsbD_decodeFlags (r : DecodeResult) :
    (decodeFlags r).getLsbD 0 = r.bv ∧ (decodeFlags r).getLsbD 1 = r.fe ∧
      (decodeFlags r).getLsbD 2 = false ∧ (decodeFlags r).getLsbD 3 = false ∧
      (decodeFlags r).getLsbD 4 = r.pe ∧ (decodeFlags r).getLsbD 5 = r.rp := by
  have h : ∀ bv fe pe rp : Bool, ∀ f, f = flagBV bv ||| flagFE fe ||| flagPE pe ||| flagRP rp →
      f.getLsbD 0 = bv ∧ f.getLsbD 1 = fe ∧ f.getLsbD 2 = false ∧ f.getLsbD 3 = false ∧
        f.getLsbD 4 = pe ∧ f.getLsbD 5 = rp := by
    rintro bv fe pe rp f rfl
    revert bv fe pe rp
    decide
  exact h r.bv r.fe r.pe r.rp _ rfl

/-- The same flags at their bits of the response word (30_encoding.md R72, R73). -/
theorem getLsbD_responseWord_decodeFlags (r : DecodeResult) (data : RegVal) :
    let p := responseWord .ok (decodeFlags r) data
    p.getLsbD 16 = r.bv ∧ p.getLsbD 17 = r.fe ∧ p.getLsbD 18 = false ∧ p.getLsbD 19 = false ∧
      p.getLsbD 20 = r.pe ∧ p.getLsbD 21 = r.rp := by
  have hflag (i : Nat) (hi : i < 12) :
      (responseWord .ok (decodeFlags r) data).getLsbD (i + 16) = (decodeFlags r).getLsbD i :=
    getLsbD_responseWord_flags .ok (decodeFlags r) data (i + 16) (by omega) (by omega)
  dsimp only
  rw [hflag 0 (by omega), hflag 1 (by omega), hflag 2 (by omega), hflag 3 (by omega), hflag 4 (by omega),
    hflag 5 (by omega)]
  exact getLsbD_decodeFlags r

/-- Settles O37: at a gate the response holds one flag, and past them what DECODE reports. -/
theorem rxResponseContents : Obligations.RxResponseContents := by
  intro s t sample hen hexec
  rcases execRxSample_response hen hexec with ⟨p, hp, ht⟩ | ⟨rx, r, rfl, hr, ht⟩
  · obtain ⟨hstatus, hboth, h16, h17, h20, h21, hdata⟩ := rxGateResponses_contents hp
    refine ⟨p, ht, hstatus, hboth, fun _ => ⟨h16, h17, h20, h21⟩, ?_⟩
    rw [h16, h17, h20, h21]
    exact ⟨by simp, by simp, by simp, fun _ => hdata⟩
  · obtain ⟨hfe, hout, hparity⟩ :
        (r.bv = true → r.fe = false) ∧ (r.bv = false → r.out = 0#8) ∧
          (r.pe = true ∨ r.rp = true → r.bv = true ∧ s.cfg.ser.parityBits = true) := by
      rw [hr, decodeLevel_result]
      exact countDown_result _ _ _
    obtain ⟨h16, h17, h18, h19, h20, h21⟩ := getLsbD_responseWord_decodeFlags r (r.out.setWidth 16)
    refine ⟨_, ht, statusField_responseWord _ _ _, ?_⟩
    rw [h16, h17, h18, h19, h20, h21, dataField_responseWord, setWidth_eq_zero_append 8]
    refine ⟨by simp, by simp, fun ⟨hbv, hfe'⟩ => by simp [hfe hbv] at hfe', hparity, fun _ => ?_, fun hbv => ?_⟩
    · rw [hr]
      rfl
    · rw [hout hbv]
      rfl

end Sys2Proof.Proofs
end

section
/-! A frame as DECODE reads it: the byte as a sum of bits, the decoder between two sampling instants, and by
induction on the bit positions the run from the arming step to the emitted byte (44_decoder.md R108 to R116,
R122). -/

namespace Sys2Proof.Proofs

open Sys2Proof Sys2Proof.Machine Sys2Proof.Laws

/-! ### The byte as a sum of bits -/

/-- Each bit of a sum of powers of two. -/
theorem testBit_sum_bits (bits : Nat → Bool) (n i : Nat) :
    (((List.range n).map fun j => (bits j).toNat * 2 ^ j).sum).testBit i = (decide (i < n) && bits i) ∧
      ((List.range n).map fun j => (bits j).toNat * 2 ^ j).sum < 2 ^ n := by
  induction n with
  | zero => simp
  | succ n ih =>
    obtain ⟨hbit, hlt⟩ := ih
    have hone : (bits n).toNat ≤ 1 := Bool.toNat_le _
    rw [List.range_succ, List.map_append, List.sum_append, List.map_singleton, List.sum_singleton,
      Nat.add_comm, Nat.mul_comm]
    refine ⟨?_, by rw [pow_succ]; cases bits n <;> simp <;> omega⟩
    rw [Nat.testBit_two_pow_mul_add _ hlt, hbit]
    split
    next hi => simp [hi, hi.le]
    next hi =>
      rcases eq_or_ne i n with rfl | hne
      · cases bits i <;> simp
      · have : (bits n).toNat < 2 ^ (i - n) := hone.trans_lt (Nat.one_lt_two_pow (by omega))
        simp [Nat.testBit_lt_two_pow this]
        omega

/-- The bits of a byte put together from at most 8 bits. -/
theorem getLsbD_byteOfBits (bits : Nat → Bool) {n : Nat} (hn : n ≤ 8) (i : Nat) :
    (byteOfBits bits n).getLsbD i = (decide (i < n) && bits i) := by
  rw [byteOfBits, BitVec.getLsbD_ofNat, (testBit_sum_bits bits n i).1]
  by_cases hi : i < n
  · simp [hi]; omega
  · simp [hi]

/-- One more bit, put in by OR (44_decoder.md R110). -/
theorem byteOfBits_succ (bits : Nat → Bool) {n : Nat} (hn : n < 8) :
    byteOfBits bits n ||| BitVec.ofNat 8 ((bits n).toNat * 2 ^ n) = byteOfBits bits (n + 1) := by
  apply BitVec.eq_of_getLsbD_eq
  intro i hi
  rw [BitVec.getLsbD_or, getLsbD_byteOfBits bits hn.le, getLsbD_byteOfBits bits hn, BitVec.getLsbD_ofNat]
  rcases lt_trichotomy i n with hlt | rfl | hgt
  · simp [hlt, hlt.le, Nat.testBit_mul_two_pow, hlt.not_ge]
  · cases bits i <;> simp [hi]
  · have : (bits n).toNat < 2 ^ (i - n) := (Bool.toNat_le _).trans_lt (Nat.one_lt_two_pow (by omega))
    simp [hgt.not_gt, Nat.testBit_mul_two_pow, Nat.testBit_lt_two_pow this]
    omega

/-- The byte depends on the bits below n alone. -/
theorem byteOfBits_congr {bits bits' : Nat → Bool} {n : Nat} (h : ∀ i, i < n → bits i = bits' i) :
    byteOfBits bits n = byteOfBits bits' n := by
  rw [byteOfBits, byteOfBits, List.map_congr_left fun i hi => by rw [h i (List.mem_range.1 hi)]]

/-! ### The decoder between two sampling instants -/

/-- The step at which position k is sampled, counted from the arming step (R116). -/
def instant (cfg : ConfigRegs) (k : Nat) : Nat := cfg.offset.toNat + k * cfg.spb.toNat

/-- The bit of position k (R105). -/
def sampled (cfg : ConfigRegs) (level : Nat → Level) (k : Nat) : Bool :=
  decide (cfg.levelT.toInt ≤ (level (instant cfg k)).toInt)

/-- Position k is no start bit of 1 and no stop bit of 0 (R109, R112). -/
abbrev Accepted (ser : SerCfg) (bits : Nat → Bool) (k : Nat) : Prop :=
  (k = 0 → bits k = false) ∧ (ser.stopStart ≤ k → bits k = true)

/-- A falling edge at step n: the level is below LEVEL_T and the one before was not (R107). -/
abbrev FallsAt (cfg : ConfigRegs) (level : Nat → Level) (n : Nat) : Prop :=
  (level n).toInt < cfg.levelT.toInt ∧ cfg.levelT.toInt ≤ (level (n - 1)).toInt

/-- DEC.byte once the positions below k are read (R110). -/
def byteBefore (ser : SerCfg) (bits : Nat → Bool) (k : Nat) : Byte :=
  byteOfBits (fun i => bits (i + 1)) (min (k - 1) ser.numData)

/-- DEC.par once the positions below k are read (R111). -/
def parBefore (ser : SerCfg) (bits : Nat → Bool) (k : Nat) : Bool :=
  decide (ser.parStart < k) && (ser.parityBits && bits ser.parStart)

/-- The decoder that waits for position k, with `count` steps to its sampling instant. -/
def awaiting (ser : SerCfg) (bits : Nat → Bool) (k count : Nat) (last : Level) : DecoderState :=
  { off := BitVec.ofNat 16 count, last := last, bit := BitVec.ofNat 5 k
    byte := byteBefore ser bits k, par := parBefore ser bits k }

/-- A data bit goes to its place in the byte (R110). -/
theorem byteBefore_succ_data {ser : SerCfg} (bits : Nat → Bool) (hdata : ser.numData ≤ 8) {k : Nat}
    (hpos : 1 ≤ k) (hk : k < ser.parStart) :
    byteBefore ser bits k ||| BitVec.ofNat 8 ((bits k).toNat * 2 ^ (k - 1)) = byteBefore ser bits (k + 1) := by
  obtain ⟨n, rfl⟩ := Nat.exists_eq_add_of_le' hpos
  rw [SerCfg.parStart] at hk
  rw [byteBefore, byteBefore, Nat.add_sub_cancel, Nat.add_sub_cancel, min_eq_left (by omega),
    min_eq_left (by omega)]
  exact byteOfBits_succ (fun i => bits (i + 1)) (by omega)

/-- The start bit, the parity bit and the stop bits leave the byte as it is. -/
theorem byteBefore_succ_of_not_data {ser : SerCfg} (bits : Nat → Bool) {k : Nat}
    (h : k = 0 ∨ ser.parStart ≤ k) : byteBefore ser bits (k + 1) = byteBefore ser bits k := by
  rw [SerCfg.parStart] at h
  rw [byteBefore, byteBefore]
  congr 1
  omega

/-- The byte once all data bits are read. -/
theorem byteBefore_of_parStart_le {ser : SerCfg} (bits : Nat → Bool) {k : Nat} (h : ser.parStart ≤ k) :
    byteBefore ser bits k = byteOfBits (fun i => bits (i + 1)) ser.numData := by
  rw [SerCfg.parStart] at h
  rw [byteBefore, min_eq_right (by omega)]

/-- STOP_START does not stand before PAR_START (10_state.md R41). -/
theorem parStart_le_stopStart (ser : SerCfg) : ser.parStart ≤ ser.stopStart := Nat.le_add_right _ _

/-- Between PAR_START and STOP_START stands the one parity bit of a frame with P = 1 (10_state.md R41). -/
theorem parStart_le_lt_stopStart_iff {ser : SerCfg} {k : Nat} :
    ser.parStart ≤ k ∧ k < ser.stopStart ↔ k = ser.parStart ∧ ser.parityBits = true := by
  rw [SerCfg.parStart, SerCfg.stopStart, SerCfg.numParity]
  cases ser.parityBits
  · simp
  · simp only [Bool.toNat_true, and_true]
    omega

/-- The parity bit goes to DEC.par (R111). -/
theorem parBefore_succ_parity {ser : SerCfg} (bits : Nat → Bool) {k : Nat} (hlo : ser.parStart ≤ k)
    (hhi : k < ser.stopStart) : parBefore ser bits (k + 1) = bits k := by
  obtain ⟨rfl, hp⟩ := parStart_le_lt_stopStart_iff.1 ⟨hlo, hhi⟩
  simp [parBefore, hp]

/-- Every other bit leaves DEC.par as it is. -/
theorem parBefore_succ_of_not_parity {ser : SerCfg} (bits : Nat → Bool) {k : Nat}
    (h : k < ser.parStart ∨ ser.stopStart ≤ k) : parBefore ser bits (k + 1) = parBefore ser bits k := by
  have hnot : ¬(k = ser.parStart ∧ ser.parityBits = true) := fun hpar => by
    have := parStart_le_lt_stopStart_iff.2 hpar
    omega
  rw [parBefore, parBefore]
  cases hp : ser.parityBits
  · simp
  · have hne : k ≠ ser.parStart := fun hk => hnot ⟨hk, hp⟩
    rw [decide_eq_decide.2 (show ser.parStart < k + 1 ↔ ser.parStart < k by omega)]

/-- A position below N_FRAME fits DEC.bit. -/
theorem toNat_ofNat_position {ser : SerCfg} (hser : SerialLegal ser) {k : Nat} (hk : k < ser.numFrame) :
    (BitVec.ofNat 5 k).toNat = k := by
  obtain ⟨-, -, htotal⟩ := hser
  rw [BitVec.toNat_ofNat, Nat.mod_eq_of_lt]
  simp only [SerCfg.numFrame] at hk
  omega

/-- An accepted bit brings the byte and the parity bit up to the next position (R109 to R112). -/
theorem acceptBit_awaiting {ser : SerCfg} {bits : Nat → Bool} (hser : SerialLegal ser) {k : Nat}
    (hk : k < ser.numFrame) (hacc : Accepted ser bits k) (count : Nat) (last : Level) :
    acceptBit ser (awaiting ser bits k count last) (bits k) =
      some { awaiting ser bits (k + 1) count last with bit := BitVec.ofNat 5 k } := by
  have hbit : (awaiting ser bits k count last).bit.toNat = k := toNat_ofNat_position hser hk
  have hstarts := parStart_le_stopStart ser
  obtain ⟨hstart, hstop⟩ := hacc
  obtain ⟨⟨-, hdata⟩, -⟩ := hser
  rcases Nat.eq_zero_or_pos k with rfl | hpos
  · rw [hstart rfl, acceptBit_start hbit, awaiting, awaiting, byteBefore_succ_of_not_data bits (.inl rfl),
      parBefore_succ_of_not_parity bits (.inl (by rw [SerCfg.parStart]; omega))]
  · by_cases hd : k < ser.parStart
    · rw [acceptBit_data (by omega) (by omega), hbit, awaiting, awaiting,
        ← byteBefore_succ_data bits hdata hpos hd, parBefore_succ_of_not_parity bits (.inl hd)]
    · by_cases hp : k < ser.stopStart
      · rw [acceptBit_parity (by omega) (by omega), awaiting, awaiting,
          byteBefore_succ_of_not_data bits (.inr (by omega)), parBefore_succ_parity bits (by omega) hp]
      · rw [hstop (by omega), acceptBit_stop (by omega), awaiting, awaiting,
          byteBefore_succ_of_not_data bits (.inr (by omega)),
          parBefore_succ_of_not_parity bits (.inr (by omega))]

/-- The decoder idle, as a complete frame leaves it (R113). -/
def idleAfter (last : Level) : DecoderState :=
  { off := 0xFFFF#16, last := last, bit := 0#5, byte := 0#8, par := false }

/-- What a complete frame of the given bits reports (R111, R113). -/
def frameResult (ser : SerCfg) (bits : Nat → Bool) : DecodeResult :=
  let out := byteOfBits (fun i => bits (i + 1)) ser.numData
  { bv := true, out := out, fe := false
    pe := ser.parityBits && (bits (ser.numData + 1) != parityOf ser.parityKind out)
    rp := ser.parityBits && bits (ser.numData + 1) }

/-! ### One step of a frame -/

/-- A count of at most 32767 as a signed value. -/
theorem toInt_ofNat_count {count : Nat} (h : count ≤ 32767) : (BitVec.ofNat 16 count).toInt = count := by
  rw [toInt_16, BitVec.toNat_ofNat, Nat.mod_eq_of_lt (by omega), if_pos (by omega)]

/-- Between two sampling instants a frame only counts down; before the start bit this needs that the level
does not fall (R107, R108, R121). -/
theorem decodeLevel_awaiting_counting {cfg : ConfigRegs} (hser : SerialLegal cfg.ser) (bits : Nat → Bool)
    {k count : Nat} {last level : Level} (hk : k < cfg.ser.numFrame) (hcount : count + 1 ≤ 32767)
    (hpos : 1 ≤ count)
    (hcalm : k ≠ 0 ∨ ¬(level.toInt < cfg.levelT.toInt ∧ cfg.levelT.toInt ≤ last.toInt)) :
    decodeLevel cfg (awaiting cfg.ser bits k (count + 1) last) level =
      (awaiting cfg.ser bits k count level, quietResult) := by
  have hbit : (awaiting cfg.ser bits k (count + 1) last).bit.toNat = k := toNat_ofNat_position hser hk
  have hoff : (awaiting cfg.ser bits k (count + 1) last).off.toInt = (count + 1 : Nat) :=
    toInt_ofNat_count hcount
  rw [decodeLevel_counting (by omega)
    (hcalm.imp_left fun h => (toNat_pos_iff _).1 (by omega))]
  simp only [awaiting, BitVec.ofNat_add, BitVec.add_sub_cancel]

/-- The countdown part at the sampling instant of an accepted position (R113, R114). -/
theorem countDown_awaiting {cfg : ConfigRegs} (hser : SerialLegal cfg.ser) {bits : Nat → Bool} {k : Nat}
    {last level : Level} (hk : k < cfg.ser.numFrame) (hacc : Accepted cfg.ser bits k)
    (hbit : bitOfLevel cfg.levelT level = bits k) :
    countDown cfg (awaiting cfg.ser bits k 1 last) level =
      if k = cfg.ser.numFrame - 1 then
        (idleAfter last, emitByte cfg.ser (awaiting cfg.ser bits (k + 1) 0 last))
      else (awaiting cfg.ser bits (k + 1) cfg.spb.toNat last, quietResult) := by
  have hpos : (awaiting cfg.ser bits k 0 last).bit.toNat = k := toNat_ofNat_position hser hk
  rw [countDown_instant cfg _ level rfl, hbit]
  change sampleBit cfg (awaiting cfg.ser bits k 0 last) (bits k) = _
  rw [sampleBit, acceptBit_awaiting hser hk hacc, hpos]
  dsimp only
  split
  · rfl
  · simp only [awaiting, BitVec.ofNat_add, BitVec.ofNat_toNat, BitVec.setWidth_eq]

/-- An accepted position before the last one leads to the next (R114). -/
theorem decodeLevel_awaiting_next {cfg : ConfigRegs} (hser : SerialLegal cfg.ser) {bits : Nat → Bool} {k : Nat}
    {last level : Level} (hk : k + 1 < cfg.ser.numFrame) (hacc : Accepted cfg.ser bits k)
    (hbit : bitOfLevel cfg.levelT level = bits k) :
    decodeLevel cfg (awaiting cfg.ser bits k 1 last) level =
      (awaiting cfg.ser bits (k + 1) cfg.spb.toNat level, quietResult) := by
  have hcount := countDown_awaiting (last := last) hser (by omega) hacc hbit
  rw [if_neg (by omega)] at hcount
  have hnext : (awaiting cfg.ser bits (k + 1) cfg.spb.toNat last).bit.toNat = k + 1 :=
    toNat_ofNat_position hser hk
  have hbusy : (awaiting cfg.ser bits (k + 1) cfg.spb.toNat last).bit ≠ 0#5 :=
    (toNat_pos_iff _).1 (by rw [hnext]; omega)
  rw [decodeLevel_of_no_edge (by rw [hcount]; exact .inl hbusy), hcount]
  rfl

/-- The byte and the parity results of a frame whose data bits and parity bit are read (R111, R113). -/
theorem emitByte_awaiting {ser : SerCfg} {bits : Nat → Bool} {k : Nat} (hk : ser.parStart < k) (count : Nat)
    (last : Level) : emitByte ser (awaiting ser bits k count last) = frameResult ser bits := by
  have hpar : ser.parityBits = true → parBefore ser bits k = bits ser.parStart := fun hp => by
    simp [parBefore, hp, hk]
  have hbyte := byteBefore_of_parStart_le bits hk.le
  rw [SerCfg.parStart, Nat.add_comm] at hpar
  simp only [emitByte, awaiting, frameResult, hbyte]
  cases hp : ser.parityBits
  · rfl
  · rw [hpar hp]

/-- The last position, a stop bit of 1, completes the frame (R113). -/
theorem decodeLevel_awaiting_last {cfg : ConfigRegs} (hser : SerialLegal cfg.ser) {bits : Nat → Bool}
    {last level : Level} (hacc : Accepted cfg.ser bits (cfg.ser.numFrame - 1))
    (hbit : bitOfLevel cfg.levelT level = bits (cfg.ser.numFrame - 1)) :
    decodeLevel cfg (awaiting cfg.ser bits (cfg.ser.numFrame - 1) 1 last) level =
      (idleAfter level, frameResult cfg.ser bits) := by
  have ⟨_, hstops, _⟩ := hser
  have hframe : cfg.ser.numFrame = cfg.ser.stopStart + cfg.ser.numStop := rfl
  have hcount := countDown_awaiting (last := last) hser (by omega) hacc hbit
  rw [if_pos rfl] at hcount
  have hhigh : cfg.levelT.toInt ≤ level.toInt := bitOfLevel_true.1 (hbit.trans (hacc.2 (by omega)))
  rw [decodeLevel_of_no_edge (.inr fun ⟨hlow, _⟩ => hlow.not_ge hhigh), hcount]
  refine Prod.ext rfl (emitByte_awaiting ?_ 0 last)
  rw [SerCfg.parStart]
  rw [SerCfg.stopStart] at hframe
  omega

/-! ### The run from the arming step -/

/-- The decoder armed at step 0, at which the level was `level 0`, and no falling edge between it and the
sampling instant of the start bit (R116). -/
structure ArmedAtZero (cfg : ConfigRegs) (d : DecoderState) (level : Nat → Level) : Prop where
  legal : RxConfigLegal cfg
  off : d.off = cfg.offset
  bit : d.bit = 0#5
  byte : d.byte = 0#8
  par : d.par = false
  last : d.last = level 0
  calm : ∀ n, 1 ≤ n → n < cfg.offset.toNat → ¬FallsAt cfg level n

/-- The step at which the countdown to position k was loaded: the arming step, or the sampling instant of the
position before (R114). -/
def loadedAt (cfg : ConfigRegs) : Nat → Nat
  | 0 => 0
  | k + 1 => instant cfg k

/-- Step n takes the decoder from after step n - 1. -/
theorem decoderAfter_of_pos {cfg : ConfigRegs} {d : DecoderState} {level : Nat → Level} {n : Nat} (hn : 1 ≤ n) :
    decoderAfter cfg d level n = (decodeLevel cfg (decoderAfter cfg d level (n - 1)) (level n)).1 := by
  obtain ⟨m, rfl⟩ := Nat.exists_eq_add_of_le' hn
  rfl

/-- The countdown to position k, from the step a at which it was loaded. -/
theorem decoderAfter_counting {cfg : ConfigRegs} (hser : SerialLegal cfg.ser) {bits : Nat → Bool}
    {d : DecoderState} {level : Nat → Level} {k a count : Nat} (hk : k < cfg.ser.numFrame)
    (hcount : count ≤ 32767)
    (hload : decoderAfter cfg d level a = awaiting cfg.ser bits k count (level a))
    (hcalm : ∀ n, a < n → n < a + count → k ≠ 0 ∨ ¬FallsAt cfg level n) {j : Nat} (hj : j < count) :
    decoderAfter cfg d level (a + j) = awaiting cfg.ser bits k (count - j) (level (a + j)) ∧
      (1 ≤ j → decoderResult cfg d level (a + j) = quietResult) := by
  induction j with
  | zero => exact ⟨hload, by simp⟩
  | succ j ih =>
    obtain ⟨hafter, -⟩ := ih (by omega)
    have hstep := decodeLevel_awaiting_counting hser bits (count := count - (j + 1)) (last := level (a + j))
      (level := level (a + (j + 1))) hk (by omega) (by omega) (hcalm (a + (j + 1)) (by omega) (by omega))
    rw [show count - (j + 1) + 1 = count - j by omega, ← hafter] at hstep
    exact ⟨congrArg Prod.fst hstep, fun _ => congrArg Prod.snd hstep⟩

/-- The next sampling instant is SPB steps on. -/
theorem instant_succ (cfg : ConfigRegs) (k : Nat) : instant cfg (k + 1) = instant cfg k + cfg.spb.toNat := by
  rw [instant, instant, Nat.succ_mul, Nat.add_assoc]

/-- The countdown to a position is loaded before its sampling instant. -/
theorem loadedAt_lt_instant {cfg : ConfigRegs} (hcfg : RxConfigLegal cfg) (k : Nat) :
    loadedAt cfg k < instant cfg k := by
  obtain ⟨⟨-, hspb, -⟩, -, hoffset, -⟩ := hcfg
  cases k with
  | zero => rw [loadedAt, instant]; omega
  | succ k => rw [loadedAt, instant_succ]; omega

/-- An armed decoder waits for the start bit. -/
theorem ArmedAtZero.eq_awaiting {cfg : ConfigRegs} {d : DecoderState} {level : Nat → Level}
    (h : ArmedAtZero cfg d level) (bits : Nat → Bool) :
    d = awaiting cfg.ser bits 0 cfg.offset.toNat (level 0) := by
  obtain ⟨-, hoff, hbit, hbyte, hpar, hlast, -⟩ := h
  cases d
  subst hoff hbit hbyte hpar hlast
  simp [awaiting, byteBefore, parBefore, byteOfBits]

/-- R116 for position k: as long as the positions below it are accepted, nothing is reported before its
sampling instant, and from the step at which its countdown is loaded the decoder waits for it. -/
theorem ArmedAtZero.run {cfg : ConfigRegs} {d : DecoderState} {level : Nat → Level}
    (h : ArmedAtZero cfg d level) {k : Nat} (hk : k < cfg.ser.numFrame)
    (hacc : ∀ i, i < k → Accepted cfg.ser (sampled cfg level) i) :
    (∀ n, 1 ≤ n → n < instant cfg k → decoderResult cfg d level n = quietResult) ∧
    (∀ n, loadedAt cfg k ≤ n → n < instant cfg k →
      decoderAfter cfg d level n = awaiting cfg.ser (sampled cfg level) k (instant cfg k - n) (level n)) := by
  have ⟨⟨hser, hspb⟩, _, hoffset⟩ := h.legal
  induction k with
  | zero =>
    have hload : decoderAfter cfg d level 0 = _ := h.eq_awaiting (sampled cfg level)
    have hcount {n : Nat} := decoderAfter_counting hser hk hoffset.2 hload
      (fun n hlo hhi => .inr (h.calm n hlo (by omega))) (j := n)
    simp only [Nat.zero_add] at hcount
    rw [instant, Nat.zero_mul, Nat.add_zero]
    exact ⟨fun n hlo hhi => (hcount hhi).2 hlo, fun n _ hhi => (hcount hhi).1⟩
  | succ k ih =>
    obtain ⟨hquiet, hafter⟩ := ih (by omega) fun i hi => hacc i (by omega)
    have hgap := loadedAt_lt_instant h.legal k
    have hbefore := hafter (instant cfg k - 1) (by omega) (by omega)
    rw [Nat.sub_sub_self (by omega)] at hbefore
    have hstep := decodeLevel_awaiting_next hser (last := level (instant cfg k - 1)) hk (hacc k (by omega)) rfl
    have hload : decoderAfter cfg d level (instant cfg k) =
        awaiting cfg.ser (sampled cfg level) (k + 1) cfg.spb.toNat (level (instant cfg k)) := by
      rw [decoderAfter_of_pos (by omega), hbefore, hstep]
    have hreport : decoderResult cfg d level (instant cfg k) = quietResult := by
      rw [decoderResult, hbefore, hstep]
    have hcount {j : Nat} := decoderAfter_counting hser hk hspb.2 hload (fun _ _ _ => .inl k.succ_ne_zero)
      (j := j)
    rw [instant_succ, loadedAt]
    constructor
    · intro n hlo hhi
      rcases lt_trichotomy n (instant cfg k) with hlt | rfl | hgt
      · exact hquiet n hlo hlt
      · exact hreport
      · obtain ⟨j, rfl⟩ := Nat.exists_eq_add_of_le hgt.le
        exact (hcount (by omega)).2 (by omega)
    · intro n hlo hhi
      obtain ⟨j, rfl⟩ := Nat.exists_eq_add_of_le hlo
      rw [(hcount (by omega)).1, Nat.add_sub_add_left]

/-- A frame has a last position. -/
theorem last_lt_numFrame (ser : SerCfg) : ser.numFrame - 1 < ser.numFrame := by
  rw [SerCfg.numFrame]
  omega

/-- With OFFSET < SPB the last position is sampled before the frame's N_FRAME·SPB steps are over (R122). -/
theorem instant_last_lt {cfg : ConfigRegs} (hshort : cfg.offset.toNat < cfg.spb.toNat) :
    instant cfg (cfg.ser.numFrame - 1) < cfg.ser.numFrame * cfg.spb.toNat := by
  obtain ⟨m, hm⟩ := Nat.exists_eq_add_of_lt (Nat.zero_lt_of_lt (last_lt_numFrame cfg.ser))
  rw [hm, instant, Nat.add_sub_cancel, Nat.succ_mul]
  omega

/-- At the step before its sampling instant the countdown to position k is at 1. -/
theorem ArmedAtZero.before_instant {cfg : ConfigRegs} {d : DecoderState} {level : Nat → Level}
    (h : ArmedAtZero cfg d level) {k : Nat} (hk : k < cfg.ser.numFrame)
    (hacc : ∀ i, i < k → Accepted cfg.ser (sampled cfg level) i) :
    decoderAfter cfg d level (instant cfg k - 1) =
      awaiting cfg.ser (sampled cfg level) k 1 (level (instant cfg k - 1)) := by
  have hgap := loadedAt_lt_instant h.legal k
  rw [(h.run hk hacc).2 (instant cfg k - 1) (by omega) (by omega), Nat.sub_sub_self (by omega)]

/-- R116 for a complete frame: at the sampling instant of the last position the byte is emitted and the decoder
is idle again. -/
theorem ArmedAtZero.complete {cfg : ConfigRegs} {d : DecoderState} {level : Nat → Level}
    (h : ArmedAtZero cfg d level)
    (hacc : ∀ k, k < cfg.ser.numFrame → Accepted cfg.ser (sampled cfg level) k) :
    decoderResult cfg d level (instant cfg (cfg.ser.numFrame - 1)) = frameResult cfg.ser (sampled cfg level) ∧
      decoderAfter cfg d level (instant cfg (cfg.ser.numFrame - 1)) =
        idleAfter (level (instant cfg (cfg.ser.numFrame - 1))) := by
  have ⟨⟨hser, _⟩, _⟩ := h.legal
  have hlast := last_lt_numFrame cfg.ser
  have hgap := loadedAt_lt_instant h.legal (cfg.ser.numFrame - 1)
  rw [decoderAfter_of_pos (by omega), decoderResult, h.before_instant hlast fun i hi => hacc i (by omega),
    decodeLevel_awaiting_last hser (hacc _ hlast) rfl]
  exact ⟨rfl, rfl⟩

/-- Settles O34: the run to each sampling instant, and the last one of a complete frame. -/
theorem frameSampledAtInstants : Obligations.FrameSampledAtInstants := by
  intro cfg d level hcfg hoff hbit hbyte hpar hlast hcalm
  have h : ArmedAtZero cfg d level := ⟨hcfg, hoff, hbit, hbyte, hpar, hlast, hcalm⟩
  have ⟨⟨hser, _⟩, _⟩ := hcfg
  constructor
  · intro k hk hacc
    have hbefore := h.before_instant hk hacc
    exact ⟨(congrArg (·.bit.toNat) hbefore).trans (toNat_ofNat_position hser hk),
      congrArg DecoderState.off hbefore⟩
  · intro hacc
    obtain ⟨hresult, hafter⟩ := h.complete hacc
    have hlast := last_lt_numFrame cfg.ser
    exact ⟨(h.run hlast fun i hi => hacc i (by omega)).1, hresult, hafter⟩

/-! ### The frame that follows -/

/-- An idle decoder is not armed. -/
theorem toInt_off_idleAfter (last : Level) : (idleAfter last).off.toInt ≤ 0 :=
  show (0xFFFF#16 : BitVec 16).toInt ≤ 0 by decide

/-- The idle decoder takes a level at or above LEVEL_T into last and reports nothing (R107). -/
theorem decodeLevel_idleAfter_high {cfg : ConfigRegs} {last level : Level}
    (hhigh : cfg.levelT.toInt ≤ level.toInt) :
    decodeLevel cfg (idleAfter last) level = (idleAfter level, quietResult) :=
  decodeLevel_unarmed (toInt_off_idleAfter last) fun ⟨hlow, _⟩ => hlow.not_ge hhigh

/-- A falling edge arms the idle decoder with OFFSET (R107). -/
theorem decodeLevel_idleAfter_edge {cfg : ConfigRegs} {last level : Level}
    (hlow : level.toInt < cfg.levelT.toInt) (hlast : cfg.levelT.toInt ≤ last.toInt) :
    decodeLevel cfg (idleAfter last) level = ({ idleAfter level with off := cfg.offset }, quietResult) := by
  have hcount : countDown cfg (idleAfter last) level = (idleAfter last, quietResult) :=
    countDown_unarmed cfg _ level (toInt_off_idleAfter last)
  rw [decodeLevel_of_edge (by rw [hcount]; rfl) hlow hlast, hcount]
  rfl

/-- The decoder idle at step a stays idle, and reports nothing, while the level is at or above LEVEL_T. -/
theorem decoderAfter_idle {cfg : ConfigRegs} {d : DecoderState} {level : Nat → Level} {a b : Nat}
    (hidle : decoderAfter cfg d level a = idleAfter (level a))
    (hhigh : ∀ n, a ≤ n → n < b → cfg.levelT.toInt ≤ (level n).toInt) {n : Nat} (hlo : a ≤ n) (hhi : n < b) :
    decoderAfter cfg d level n = idleAfter (level n) ∧
      (a < n → decoderResult cfg d level n = quietResult) := by
  induction n, hlo using Nat.le_induction with
  | base => exact ⟨hidle, fun h => absurd h (lt_irrefl a)⟩
  | succ n hle ih =>
    obtain ⟨hafter, -⟩ := ih (by omega)
    have hstep := decodeLevel_idleAfter_high (last := level n) (hhigh (n + 1) (by omega) hhi)
    rw [← hafter] at hstep
    exact ⟨congrArg Prod.fst hstep, fun _ => congrArg Prod.snd hstep⟩

/-- Settles O35: the complete frame, the idle steps after it, and the edge that arms the decoder again. -/
theorem backToBackFrameCaught : Obligations.BackToBackFrameCaught := by
  intro cfg d level hcfg hshort hoff hbit hbyte hpar hlast hcalm
  have h : ArmedAtZero cfg d level := ⟨hcfg, hoff, hbit, hbyte, hpar, hlast, hcalm⟩
  intro _ second hstart hstops hhigh hedge
  change ∀ n, instant cfg (cfg.ser.numFrame - 1) ≤ n → _ at hhigh
  have hacc (k : Nat) (hk : k < cfg.ser.numFrame) : Accepted cfg.ser (sampled cfg level) k :=
    ⟨fun hzero => hzero ▸ decide_eq_false (not_le.2 hstart), fun hstop => decide_eq_true (hstops k hstop hk)⟩
  obtain ⟨hresult, hafter⟩ := h.complete hacc
  have hsecond : instant cfg (cfg.ser.numFrame - 1) < second := instant_last_lt hshort
  have hidle {n : Nat} := decoderAfter_idle (n := n) hafter hhigh
  obtain ⟨hbefore, -⟩ := hidle (n := second - 1) (by omega) (by omega)
  have hstep := decodeLevel_idleAfter_edge hedge (hhigh (second - 1) (by omega) (by omega))
  rw [← hbefore] at hstep
  refine ⟨congrArg DecodeResult.bv hresult, fun n hlo hhi => (hidle hlo hhi).1, fun n hlo hhi => ?_, ?_⟩
  · rcases hhi.lt_or_eq with hlt | rfl
    · exact (hidle hlo.le hlt).2 hlo
    · exact congrArg Prod.snd hstep
  · rw [decoderAfter_of_pos (by omega), hstep]
    rfl

end Sys2Proof.Proofs
end

section
/-! A frame as TX_SAMPLE sends it: the bits of the frame word, the transmit state within each bit period, and
the loopback of its tones through DECODE (46_transmit.md R131 to R139, 44_decoder.md R116). -/

namespace Sys2Proof.Proofs

open Sys2Proof Sys2Proof.Machine Sys2Proof.Laws

/-! ### The frame word -/

/-- The bits of the value sent, BYTE mod 2^D (46_transmit.md R133). -/
theorem getLsbD_maskData {ser : SerCfg} (byte : Byte) (i : Nat) :
    (maskData ser byte).getLsbD i = (decide (i < ser.numData) && byte.getLsbD i) := by
  rw [maskData, BitVec.getLsbD_ofNat, Nat.testBit_mod_two_pow, ← BitVec.testBit_toNat]
  by_cases hi : i < 8
  · simp [hi]
  · rw [BitVec.testBit_toNat, BitVec.getLsbD_of_ge byte i (by omega)]
    simp

/-- The value sent fits the data bits. -/
theorem toNat_maskData_lt {ser : SerCfg} (byte : Byte) : (maskData ser byte).toNat < 2 ^ ser.numData := by
  rw [maskData, BitVec.toNat_ofNat]
  exact (Nat.mod_le _ _).trans_lt (Nat.mod_lt _ (by positivity))

/-- The start bit and the data bits of a frame fill the positions below PAR_START (46_transmit.md R131). -/
theorem frame_below_parity_lt {ser : SerCfg} {v : Nat} (hv : v < 2 ^ ser.numData) :
    v * 2 ^ 1 < 2 ^ ser.parStart := by
  rw [SerCfg.parStart, Nat.add_comm, Nat.pow_add]
  omega

/-- With the parity bit they fill the positions below STOP_START (46_transmit.md R131). -/
theorem frame_below_stops_lt {ser : SerCfg} {v : Nat} (hv : v < 2 ^ ser.numData) {parity : Bool}
    (hparity : ser.parityBits = false → parity = false) :
    2 ^ ser.parStart * parity.toNat + v * 2 ^ 1 < 2 ^ ser.stopStart := by
  have hlow := frame_below_parity_lt hv
  have hstart : ser.stopStart = ser.parStart + ser.parityBits.toNat := rfl
  rw [hstart]
  cases hp : ser.parityBits
  · simpa [hparity hp] using hlow
  · rw [Bool.toNat_true, pow_succ]
    cases parity <;> simp <;> omega

/-- The bits of a frame word: the start bit 0 and the data bits below PAR_START, the parity bit below
STOP_START, and the stop bits, 1, below N_FRAME (46_transmit.md R131). -/
theorem getLsbD_frameWord {ser : SerCfg} (hser : SerialLegal ser) {v : Byte} (hv : v.toNat < 2 ^ ser.numData)
    (i : Nat) :
    (frameWord ser v).getLsbD i =
      if i < ser.parStart then decide (1 ≤ i) && v.getLsbD (i - 1)
      else if i < ser.stopStart then frameParity ser v
      else decide (i < ser.numFrame) := by
  have ⟨_, _, htotal⟩ := hser
  have hparity : ser.parityBits = false → frameParity ser v = false := fun hp => by rw [frameParity, hp]; rfl
  have hsum : 2 * v.toNat + (frameParity ser v).toNat * 2 ^ (ser.numData + 1) +
      (2 ^ ser.numStop - 1) * 2 ^ ser.stopStart =
      2 ^ ser.stopStart * (2 ^ ser.numStop - 1) +
        (2 ^ ser.parStart * (frameParity ser v).toNat + v.toNat * 2 ^ 1) := by
    rw [SerCfg.parStart, Nat.add_comm 1]
    ring
  rw [frameWord, hsum, BitVec.getLsbD_ofNat, Nat.testBit_two_pow_mul_add _ (frame_below_stops_lt hv hparity),
    Nat.testBit_two_pow_mul_add _ (frame_below_parity_lt hv), Nat.testBit_mul_two_pow, BitVec.testBit_toNat,
    Nat.testBit_two_pow_sub_one]
  have hstops : ser.numFrame = ser.stopStart + ser.numStop := rfl
  have hfits : ser.numFrame ≤ 17 := by
    rw [SerCfg.numFrame]
    omega
  rcases lt_or_ge i ser.stopStart with hlow | hstop
  · have hi : i < 17 := by omega
    simp only [hi, hlow, decide_true, Bool.true_and, if_true]
    split
    · rfl
    next hpar =>
      obtain ⟨rfl, -⟩ := parStart_le_lt_stopStart_iff.1 ⟨not_lt.1 hpar, hlow⟩
      cases frameParity ser v <;> simp
  · rw [if_neg hstop.not_gt, if_neg ((parStart_le_stopStart ser).trans hstop).not_gt, if_neg hstop.not_gt, ← Bool.decide_and]
    exact decide_eq_decide.2 (by omega)

/-! ### One TX_SAMPLE -/

/-- With the transmit session enabled TX_SAMPLE completes (46_transmit.md R138). -/
theorem afterCommand_txSample {s : State} (hen : s.ctl.txEn = true) :
    afterCommand .txSample s =
      State.answered { s with tx := afterSample s.cfg s.tab (bitBoundary s.cfg s.tx.byte) s.tx.phase }
        (responseWord .ok (sampleFlags (bitBoundary s.cfg s.tx.byte))
          (BitVec.ofInt 16 (synthSample s.tab.lut s.tx.phase))) := by
  refine afterCommand_next ?_
  change execTxSample s = _
  rw [execTxSample, if_neg (by simp [hen])]
  rfl

/-- With the transmit session enabled and the slot empty TX_PUSH completes (46_transmit.md R135). -/
theorem afterCommand_txPush {s : State} (byte : Byte) (hen : s.ctl.txEn = true)
    (hfull : s.tx.byte.full = false) :
    afterCommand (.txPush byte) s =
      State.answered { s with tx := { s.tx with byte := (pushByte s.cfg byte s.tx.byte).1 } }
        (responseWord .ok (flagPromoted (pushByte s.cfg byte s.tx.byte).2) 0#16) := by
  refine afterCommand_next ?_
  change execTxPush byte s = _
  rw [execTxPush, if_neg (by simp [hen]), if_neg (by simp [hfull])]
  rfl

/-- What TX_SAMPLE does to the transmit state (46_transmit.md R138). -/
def sampleByte (cfg : ConfigRegs) (b : ByteState) : ByteState :=
  { (bitBoundary cfg b).byte with timer := (bitBoundary cfg b).byte.timer - 1#16 }

/-- A run of TX_SAMPLE iterates its step on the transmit state and keeps the configuration and the session. -/
theorem afterCommands_txSample {s : State} (hen : s.ctl.txEn = true) (n : Nat) :
    let t := afterCommands (List.replicate n .txSample) s
    t.cfg = s.cfg ∧ t.ctl = s.ctl ∧ t.tx.byte = (sampleByte s.cfg)^[n] s.tx.byte := by
  induction n with
  | zero => exact ⟨rfl, rfl, rfl⟩
  | succ n ih =>
    obtain ⟨hcfg, hctl, hbyte⟩ := ih
    rw [afterCommands_replicate_succ, afterCommand_txSample (by rw [hctl, hen])]
    refine ⟨hcfg, hctl, ?_⟩
    rw [Function.iterate_succ_apply', ← hbyte, ← hcfg]
    rfl

/-! ### The transmit state within a frame -/

/-- The transmit state while bit k of the word w is sent, with the given number of samples left in its bit
period and no byte pending (46_transmit.md R137, R139). -/
def sending (cfg : ConfigRegs) (w : TxWord) (k left : Nat) : ByteState :=
  { cur := w >>> k, nxt := w, rem := BitVec.ofNat 5 (cfg.ser.numFrame - k), full := false
    tone := w.getLsbD k, timer := BitVec.ofNat 16 left }

/-- Idle, a pushed byte starts its frame at once (46_transmit.md R135). -/
theorem pushByte_eq_sending {cfg : ConfigRegs} {b : ByteState} (byte : Byte) (hidle : b.rem = 0#5) :
    (pushByte cfg byte b).1 =
      sending cfg (frameWord cfg.ser (maskData cfg.ser byte)) 0 cfg.spb.toNat := by
  rw [pushByte_idle byte (by rw [hidle]; rfl)]
  simp [sending, promote]

/-- The bits left of a legal frame are not 0 while a bit of it is sent. -/
theorem sending_rem_ne_zero {cfg : ConfigRegs} (hcfg : TxConfigLegal cfg) (w : TxWord) {k : Nat}
    (hk : k < cfg.ser.numFrame) (left : Nat) : (sending cfg w k left).rem ≠ 0#5 := by
  obtain ⟨⟨-, -, htotal⟩, -⟩ := hcfg
  have hfits : cfg.ser.numFrame ≤ 17 := by
    rw [SerCfg.numFrame]
    omega
  rw [← toNat_pos_iff, sending, BitVec.toNat_ofNat]
  omega

/-- Within a bit period samples only count down the bit timer (46_transmit.md R138). -/
theorem iterate_sampleByte_hold (cfg : ConfigRegs) (w : TxWord) (k : Nat) {left j : Nat} (hfits : left < 2 ^ 16)
    (hj : j ≤ left) : (sampleByte cfg)^[j] (sending cfg w k left) = sending cfg w k (left - j) := by
  induction j with
  | zero => rfl
  | succ j ih =>
    obtain ⟨rest, hrest⟩ := Nat.exists_eq_add_of_lt hj
    have htimer : (sending cfg w k (rest + 1)).timer ≠ 0#16 := by
      rw [← toNat_pos_iff, sending, BitVec.toNat_ofNat]
      omega
    rw [Function.iterate_succ_apply', ih (by omega), show left - j = rest + 1 by omega,
      show left - (j + 1) = rest by omega, sampleByte, bitBoundary_hold htimer]
    simp only [sending, BitVec.ofNat_add, BitVec.add_sub_cancel]

/-- The shift of a bit boundary within a frame: the next bit stands at bit 0 (46_transmit.md R137). -/
theorem shiftOut_sending {cfg : ConfigRegs} (hcfg : TxConfigLegal cfg) (w : TxWord) {k : Nat}
    (hk : k < cfg.ser.numFrame) (left : Nat) :
    shiftOut (sending cfg w k left) = { sending cfg w (k + 1) left with tone := w.getLsbD k } := by
  have hrem : cfg.ser.numFrame - k = cfg.ser.numFrame - (k + 1) + 1 := by omega
  rw [shiftOut_busy (sending_rem_ne_zero hcfg w hk left)]
  simp only [sending, BitVec.shiftRight_add, hrem, BitVec.ofNat_add, BitVec.add_sub_cancel]

/-- At the end of a bit period the next bit of the frame is sent (46_transmit.md R137, R138). -/
theorem sampleByte_tick {cfg : ConfigRegs} (hcfg : TxConfigLegal cfg) (w : TxWord) {k : Nat}
    (hk : k + 1 < cfg.ser.numFrame) :
    sampleByte cfg (sending cfg w k 0) = sending cfg w (k + 1) (cfg.spb.toNat - 1) := by
  have ⟨_, hpos, _⟩ := hcfg
  have hbusy : (sending cfg w (k + 1) 0).rem ≠ 0#5 := sending_rem_ne_zero hcfg w hk 0
  have htick : tick cfg.ser (sending cfg w k 0) = (sending cfg w (k + 1) 0, false) := by
    have hshift := shiftOut_sending hcfg w (show k < cfg.ser.numFrame by omega) 0
    rw [tick_continues (by rw [hshift]; exact .inl hbusy), hshift, toneOf, if_pos ((toNat_pos_iff _).2 hbusy)]
    simp [sending]
  have htimer : cfg.spb - 1#16 = BitVec.ofNat 16 (cfg.spb.toNat - 1) := by
    have hspb := cfg.spb.isLt
    apply BitVec.eq_of_toNat_eq
    rw [BitVec.toNat_sub, BitVec.toNat_ofNat, BitVec.toNat_ofNat]
    omega
  rw [sampleByte, bitBoundary_tick rfl, htick]
  simp only [sending, htimer]

/-- R139: the samples k·SPB + 1 to (k + 1)·SPB after the push send bit k of the frame. -/
theorem iterate_sampleByte {cfg : ConfigRegs} (hcfg : TxConfigLegal cfg) (w : TxWord) {k : Nat}
    (hk : k < cfg.ser.numFrame) {j : Nat} (hj : j < cfg.spb.toNat) :
    (sampleByte cfg)^[j + (k * cfg.spb.toNat + 1)] (sending cfg w 0 cfg.spb.toNat) =
      sending cfg w k (cfg.spb.toNat - 1 - j) := by
  have hspb := cfg.spb.isLt
  have hfirst : (sampleByte cfg)^[k * cfg.spb.toNat + 1] (sending cfg w 0 cfg.spb.toNat) =
      sending cfg w k (cfg.spb.toNat - 1) := by
    clear hj
    induction k with
    | zero => rw [Nat.zero_mul, Nat.zero_add, iterate_sampleByte_hold cfg w 0 hspb (by omega)]
    | succ k ih =>
      rw [show (k + 1) * cfg.spb.toNat + 1 = 1 + (cfg.spb.toNat - 1 + (k * cfg.spb.toNat + 1)) by
          rw [Nat.succ_mul]; omega,
        Function.iterate_add_apply, Function.iterate_add_apply, ih (by omega),
        iterate_sampleByte_hold cfg w k (by omega) le_rfl, Nat.sub_self, Function.iterate_one,
        sampleByte_tick hcfg w hk]
  rw [Function.iterate_add_apply, hfirst, iterate_sampleByte_hold cfg w k (by omega) (by omega)]

/-- A push to an idle transmitter starts its frame, and keeps the configuration and the session. -/
theorem afterCommand_txPush_idle {s : State} (byte : Byte) (hen : s.ctl.txEn = true)
    (hidle : s.tx.byte.rem = 0#5) (hfull : s.tx.byte.full = false) :
    let t := afterCommand (.txPush byte) s
    t.cfg = s.cfg ∧ t.ctl = s.ctl ∧
      t.tx.byte = sending s.cfg (frameWord s.cfg.ser (maskData s.cfg.ser byte)) 0 s.cfg.spb.toNat := by
  rw [afterCommand_txPush byte hen hfull]
  exact ⟨rfl, rfl, pushByte_eq_sending byte hidle⟩

/-- R139: after a push that is promoted at once, the tone of the samples k·SPB + 1 to (k + 1)·SPB is bit k of
the frame word. -/
theorem tone_after_push {s : State} (byte : Byte) (hen : s.ctl.txEn = true) (hcfg : TxConfigLegal s.cfg)
    (hidle : s.tx.byte.rem = 0#5) (hfull : s.tx.byte.full = false) {k j : Nat} (hk : k < s.cfg.ser.numFrame)
    (hj : j < s.cfg.spb.toNat) :
    (afterCommands (.txPush byte :: List.replicate (j + k * s.cfg.spb.toNat + 1) .txSample) s).tx.byte.tone =
      (frameWord s.cfg.ser (maskData s.cfg.ser byte)).getLsbD k := by
  obtain ⟨hcfg', hctl', hbyte⟩ := afterCommand_txPush_idle byte hen hidle hfull
  obtain ⟨-, -, hrun⟩ := afterCommands_txSample (by rw [hctl', hen]) (j + k * s.cfg.spb.toNat + 1)
  rw [afterCommands_cons, hrun, hcfg', hbyte, Nat.add_assoc, iterate_sampleByte hcfg _ hk hj]
  rfl

/-! ### The loopback -/

/-- Every bit of a frame word is accepted at its position (44_decoder.md R109, R112). -/
theorem accepted_frameWord {ser : SerCfg} (hser : SerialLegal ser) (byte : Byte) {bits : Nat → Bool}
    (hbits : ∀ k, k < ser.numFrame → bits k = (frameWord ser (maskData ser byte)).getLsbD k) {k : Nat}
    (hk : k < ser.numFrame) : Accepted ser bits k := by
  have hword := getLsbD_frameWord hser (toNat_maskData_lt (ser := ser) byte) k
  rw [Accepted, hbits k hk, hword]
  constructor
  · rintro rfl
    rw [if_pos (by rw [SerCfg.parStart]; omega)]
    rfl
  · intro hstop
    rw [if_neg ((parStart_le_stopStart ser).trans hstop).not_gt, if_neg hstop.not_gt, decide_eq_true hk]

/-- The bits of a frame word give back the value sent and its parity bit (44_decoder.md R110, R111,
46_transmit.md R131, R133). -/
theorem frameResult_frameWord {ser : SerCfg} (hser : SerialLegal ser) (byte : Byte) {bits : Nat → Bool}
    (hbits : ∀ k, k < ser.numFrame → bits k = (frameWord ser (maskData ser byte)).getLsbD k) :
    frameResult ser bits =
      { bv := true, out := maskData ser byte, fe := false, pe := false
        rp := ser.parityBits && parityOf ser.parityKind (maskData ser byte) } := by
  have ⟨⟨_, hdata⟩, _⟩ := hser
  have hframe : ser.numFrame = 1 + ser.numData + ser.parityBits.toNat + ser.numStop := rfl
  have hword := getLsbD_frameWord hser (toNat_maskData_lt (ser := ser) byte)
  have hout : byteOfBits (fun i => bits (i + 1)) ser.numData = maskData ser byte := by
    apply BitVec.eq_of_getLsbD_eq
    intro i _
    rw [getLsbD_byteOfBits _ hdata]
    by_cases hi : i < ser.numData
    · rw [hbits (i + 1) (by omega), hword, if_pos (by rw [SerCfg.parStart]; omega)]
      simp [hi]
    · simp [getLsbD_maskData, hi]
  have hpar : ser.parityBits = true →
      bits (ser.numData + 1) = parityOf ser.parityKind (maskData ser byte) := fun hp => by
    rw [hp, Bool.toNat_true] at hframe
    have hplace := parStart_le_lt_stopStart_iff.2 ⟨rfl, hp⟩
    rw [hbits _ (by omega), hword, Nat.add_comm, ← SerCfg.parStart, if_neg hplace.1.not_gt, if_pos hplace.2,
      frameParity, hp, Bool.true_and]
  rw [frameResult, hout]
  cases hp : ser.parityBits
  · rfl
  · rw [hpar hp]
    simp

/-- Settles O49: the levels read at the sampling instants are the bits of the frame word. -/
theorem toneLoopbackReturnsByte : Obligations.ToneLoopbackReturnsByte := by
  intro s byte d level hen hcfg hshort hidle hfull hoff hbit hbyte hpar hlast hlevel
  have ⟨htx, _⟩ := hcfg
  have ⟨hser, _⟩ := htx
  have hread {k j : Nat} (hk : k < s.cfg.ser.numFrame) (hj : j < s.cfg.spb.toNat) :
      s.cfg.levelT.toInt ≤ (level (j + k * s.cfg.spb.toNat)).toInt ↔
        (frameWord s.cfg.ser (maskData s.cfg.ser byte)).getLsbD k = true := by
    have hend : (k + 1) * s.cfg.spb.toNat ≤ s.cfg.ser.numFrame * s.cfg.spb.toNat := Nat.mul_le_mul_right _ hk
    rw [Nat.succ_mul] at hend
    rw [hlevel _ (by omega), tone_after_push byte hen htx hidle hfull hk hj]
  have hbits (k : Nat) (hk : k < s.cfg.ser.numFrame) : sampled s.cfg level k =
      (frameWord s.cfg.ser (maskData s.cfg.ser byte)).getLsbD k :=
    Bool.eq_iff_iff.2 (decide_eq_true_iff.trans (hread hk hshort))
  have hframe := Nat.zero_lt_of_lt (last_lt_numFrame s.cfg.ser)
  have hstart : (frameWord s.cfg.ser (maskData s.cfg.ser byte)).getLsbD 0 = false :=
    hbits 0 hframe ▸ (accepted_frameWord hser byte hbits hframe).1 rfl
  have hcalm (n : Nat) (_ : 1 ≤ n) (hn : n < s.cfg.offset.toNat) : ¬FallsAt s.cfg level n := fun ⟨_, habove⟩ => by
    have hone := (hread (j := n - 1) hframe (by omega)).1 (by rwa [Nat.zero_mul, Nat.add_zero])
    exact Bool.false_ne_true (hstart.symm.trans hone)
  have h : ArmedAtZero s.cfg d level := ⟨hcfg, hoff, hbit, hbyte, hpar, hlast, hcalm⟩
  obtain ⟨hresult, -⟩ := h.complete fun k hk => accepted_frameWord hser byte hbits hk
  exact hresult.trans (frameResult_frameWord hser byte hbits)

end Sys2Proof.Proofs
end

section
/-! The synthesizer: the table entry of a phase and the sign of its half cycle, the four quarters, and
the antisymmetry over half a cycle (spec/45_synthesizer.md R124 to R126, R130). -/

namespace Sys2Proof.Proofs

open Sys2Proof Sys2Proof.Machine Sys2Proof.Laws

/-! ### The table entry and the sign of a sample -/

/-- The table entry that SYNTH reads at a phase, before the sign (45_synthesizer.md R124). -/
def waveEntry (lut : Vector LutEntry 64) (phase : Phase) : LutEntry :=
  lut[(quarterIndex (synthIndex phase)).toNat]

/-- In the first half cycle the sample is the entry (45_synthesizer.md R125). -/
theorem synthSample_of_lt (lut : Vector LutEntry 64) {phase : Phase} (h : phase.toNat / 256 < 128) :
    synthSample lut phase = (waveEntry lut phase).toNat := by
  have hpos : (synthIndex phase).getLsbD 7 = false := by
    rw [getLsbD_7_index, toNat_synthIndex, decide_eq_false h.not_ge]
  rw [synthSample, hpos, if_neg Bool.false_ne_true, waveEntry]

/-- In the second half cycle the sample is the negative of the entry (45_synthesizer.md R125). -/
theorem synthSample_of_ge (lut : Vector LutEntry 64) {phase : Phase} (h : 128 ≤ phase.toNat / 256) :
    synthSample lut phase = -((waveEntry lut phase).toNat : Int) := by
  have hneg : (synthIndex phase).getLsbD 7 = true := by
    rw [getLsbD_7_index, toNat_synthIndex, decide_eq_true h]
  rw [synthSample, hneg, if_pos rfl, waveEntry]

/-- The number of the entry, by the quarter the phase is in (45_synthesizer.md R125). -/
theorem waveEntry_eq (lut : Vector LutEntry 64) {phase : Phase} {q : Nat} (hq : q < 64)
    (h : (if phase.toNat / 256 / 64 % 2 = 0 then phase.toNat / 256 % 64 else 63 - phase.toNat / 256 % 64) = q) :
    waveEntry lut phase = lut[q] := by
  rw [← toNat_synthIndex, ← toNat_quarterIndex] at h
  subst h
  rfl

/-- In an ascending quarter, the first of its half cycle, the entries are read from 0 up
(45_synthesizer.md R125). -/
theorem waveEntry_ascending (lut : Vector LutEntry 64) {phase : Phase} {half j : Nat} (hj : j < 64)
    (h : phase.toNat / 256 = 128 * half + j) : waveEntry lut phase = lut[j] :=
  waveEntry_eq lut hj (by rw [h, if_pos] <;> omega)

/-- In a descending quarter, the second of its half cycle, the entries are read from 63 down
(45_synthesizer.md R125). -/
theorem waveEntry_descending (lut : Vector LutEntry 64) {phase : Phase} {half j : Nat} (hj : j < 64)
    (h : phase.toNat / 256 = 128 * half + 64 + j) : waveEntry lut phase = lut[63 - j] :=
  waveEntry_eq lut (by omega) (by rw [h, if_neg] <;> omega)

/-- An entry has 15 bits, so a sample of either sign fits (45_synthesizer.md R126). -/
theorem synthSample_range (lut : Vector LutEntry 64) (phase : Phase) :
    -32767 ≤ synthSample lut phase ∧ synthSample lut phase ≤ 32767 := by
  have hentry := (waveEntry lut phase).isLt
  rcases Nat.lt_or_ge (phase.toNat / 256) 128 with hfirst | hsecond
  · rw [synthSample_of_lt lut hfirst]
    omega
  · rw [synthSample_of_ge lut hsecond]
    omega

/-- Settles O39: each quarter by its sign and its reading order, and the range of a sample. -/
theorem synthFoldsFourQuarters : Obligations.SynthFoldsFourQuarters := by
  intro lut phase j hj
  refine ⟨⟨fun h => ?_, fun h => ?_, fun h => ?_, fun h => ?_⟩, synthSample_range lut phase⟩
  · rw [synthSample_of_lt lut (by omega), waveEntry_ascending lut (half := 0) hj (by omega)]
  · rw [synthSample_of_lt lut (by omega), waveEntry_descending lut (half := 0) hj (by omega)]
  · rw [synthSample_of_ge lut (by omega), waveEntry_ascending lut (half := 1) hj (by omega)]
  · rw [synthSample_of_ge lut (by omega), waveEntry_descending lut (half := 1) hj (by omega)]

/-! ### Half a cycle later -/

/-- Half a cycle is 128 index steps, modulo the whole cycle of 256 (45_synthesizer.md R125, R127). -/
theorem index_half_cycle_later (phase : Phase) :
    (phase + 0x8000#16).toNat / 256 = (phase.toNat / 256 + 128) % 256 := by
  rw [BitVec.toNat_add, BitVec.toNat_ofNat]
  omega

/-- Half a cycle later the same entry is read: the quarter and the place in it are those of the index modulo
128 (45_synthesizer.md R125). -/
theorem waveEntry_half_cycle_later (lut : Vector LutEntry 64) (phase : Phase) :
    waveEntry lut (phase + 0x8000#16) = waveEntry lut phase := by
  have hindex := index_half_cycle_later phase
  have hquarter : (phase + 0x8000#16).toNat / 256 / 64 % 2 = phase.toNat / 256 / 64 % 2 := by omega
  have hplace : (phase + 0x8000#16).toNat / 256 % 64 = phase.toNat / 256 % 64 := by omega
  refine waveEntry_eq lut (quarterIndex (synthIndex phase)).isLt ?_
  rw [hquarter, hplace, toNat_quarterIndex, toNat_synthIndex]

/-- Settles O40: half a cycle later the same entry is read in the other half cycle, with the other sign. -/
theorem synthIsAntisymmetric : Obligations.SynthIsAntisymmetric := by
  intro lut phase
  have hindex := index_half_cycle_later phase
  rcases Nat.lt_or_ge (phase.toNat / 256) 128 with hfirst | hsecond
  · rw [synthSample_of_lt lut hfirst, synthSample_of_ge lut (by omega), waveEntry_half_cycle_later]
  · rw [synthSample_of_ge lut hsecond, synthSample_of_lt lut (by omega), waveEntry_half_cycle_later, Int.neg_neg]

end Sys2Proof.Proofs
end

section
/-! The transmit commands one at a time: the bits of a frame word, the parity bit, what TX_PUSH and TX_SAMPLE
do while the session is enabled, and the case table of TX_PUSH and TICK (46_transmit.md R131 to R138, R142,
R143). -/

namespace Sys2Proof.Proofs

open Sys2Proof Sys2Proof.Machine Sys2Proof.Laws

/-! ### The value sent and its frame word -/

/-- The value sent as a number: 8 bits hold BYTE mod 2^D (46_transmit.md R133). -/
theorem toNat_maskData (ser : SerCfg) (byte : Byte) :
    (maskData ser byte).toNat = byte.toNat % 2 ^ ser.numData := by
  rw [maskData, BitVec.toNat_ofNat, Nat.mod_eq_of_lt ((Nat.mod_le _ _).trans_lt byte.isLt)]

/-- Settles O41: each position read from the bits of a frame word. -/
theorem frameWordBits : Obligations.FrameWordBits := by
  intro c byte hser
  have hword := getLsbD_frameWord hser (toNat_maskData_lt (ser := c) byte)
  have hparStart : c.parStart = 1 + c.numData := rfl
  have hstopStart : c.stopStart = c.parStart + c.parityBits.toNat := rfl
  have hnumFrame : c.numFrame = c.stopStart + c.numStop := rfl
  refine ⟨toNat_maskData c byte, ?start, fun i hi => ?data, fun hp => ?parity, fun i hlo hhi => ?stop,
    fun i hi => ?above⟩
  case start =>
    rw [hword, if_pos (by omega)]
    rfl
  case data =>
    rw [hword, if_pos (by omega), Nat.add_sub_cancel_left, getLsbD_maskData]
    simp [hi]
  case parity =>
    obtain ⟨hlo, hhi⟩ := parStart_le_lt_stopStart_iff.2 ⟨hparStart.symm, hp⟩
    rw [hword, if_neg hlo.not_gt, if_pos hhi, frameParity, hp, Bool.true_and]
  case stop =>
    rw [hword, if_neg (by omega), if_neg (by omega), decide_eq_true hhi]
  case above =>
    rw [hword, if_neg (by omega), if_neg (by omega), decide_eq_false (by omega)]

/-! ### The parity bit -/

/-- Setting one position that does not hold adds one to a count, if the position is counted. -/
theorem countP_range_or_eq {p : Nat → Bool} {i : Nat} (hi : p i = false) (n : Nat) :
    (List.range n).countP (fun j => p j || decide (j = i)) =
      (List.range n).countP p + if i < n then 1 else 0 := by
  induction n with
  | zero => rfl
  | succ n ih =>
    rw [List.range_succ, List.countP_append, List.countP_append, ih, List.countP_singleton,
      List.countP_singleton]
    rcases lt_trichotomy i n with hlt | rfl | hgt
    · simp [hlt, hlt.ne', Nat.lt_succ_of_lt hlt]
      omega
    · simp [hi]
    · simp [hgt.ne, hgt.not_gt, show ¬i < n + 1 by omega]

/-- Each further bit set adds one to the number of ones (00_scope.md R9). -/
theorem popcount_or_bit {w : Nat} {v : BitVec w} {i : Nat} (hw : i < w) (hi : v.getLsbD i = false) :
    popcount (v ||| 1#w <<< i) = popcount v + 1 := by
  have hcount : popcount (v ||| 1#w <<< i) =
      (List.range w).countP fun j => v.getLsbD j || decide (j = i) := by
    refine List.countP_congr fun j _ => ?_
    rw [BitVec.getLsbD_or, ← BitVec.twoPow, BitVec.getLsbD_twoPow, decide_eq_true hw, Bool.true_and,
      decide_eq_decide.2 eq_comm]
  rw [hcount, countP_range_or_eq hi, if_pos hw]
  rfl

/-- Settles O42: each kind by its rule, and the number of ones by the bits set one at a time. -/
theorem parityMakesTotal : Obligations.ParityMakesTotal := by
  refine ⟨fun v => ⟨rfl, rfl, ?even, ?odd⟩, by decide, fun v i hw hi => popcount_or_bit hw hi⟩
  case even =>
    rcases Nat.mod_two_eq_zero_or_one (popcount v) with h | h <;> simp [parityOf, h]
    omega
  case odd =>
    rcases Nat.mod_two_eq_zero_or_one (popcount v) with h | h <;> simp [parityOf, h]
    omega

/-! ### TX_PUSH and TX_SAMPLE while the session is enabled -/

/-- Into an empty slot TX_PUSH completes (46_transmit.md R135). -/
theorem exec_txPush_of_slot_empty {s : State} (byte : Byte) (hen : s.ctl.txEn = true)
    (hfull : s.tx.byte.full = false) :
    exec (.txPush byte) s =
      .next (State.answered { s with tx := { s.tx with byte := (pushByte s.cfg byte s.tx.byte).1 } }
        (responseWord .ok (flagPromoted (pushByte s.cfg byte s.tx.byte).2) 0#16)) := by
  change execTxPush byte s = _
  rw [execTxPush, if_neg (by simp [hen]), if_neg (by simp [hfull])]
  rfl

/-- Into a full slot it is refused and sets OVR_SEEN (46_transmit.md R143, 60_exceptions.md R161). -/
theorem exec_txPush_of_slot_full {s : State} (byte : Byte) (hen : s.ctl.txEn = true)
    (hfull : s.tx.byte.full = true) :
    exec (.txPush byte) s =
      .next (State.answered { s with ctl := { s.ctl with ovrSeen := true } }
        (responseWord .overrun 0#12 0#16)) := by
  change execTxPush byte s = _
  rw [execTxPush, if_neg (by simp [hen]), if_pos hfull]
  rfl

/-- TX_SAMPLE completes (46_transmit.md R138). -/
theorem exec_txSample_of_enabled {s : State} (hen : s.ctl.txEn = true) :
    exec .txSample s =
      .next (State.answered { s with tx := afterSample s.cfg s.tab (bitBoundary s.cfg s.tx.byte) s.tx.phase }
        (responseWord .ok (sampleFlags (bitBoundary s.cfg s.tx.byte))
          (BitVec.ofInt 16 (synthSample s.tab.lut s.tx.phase)))) := by
  change execTxSample s = _
  rw [execTxSample, if_neg (by simp [hen])]
  rfl

/-- Idle, the word pushed becomes current and pending word, with all its bits left and a full bit period
(46_transmit.md R135, R136). -/
theorem pushByte_of_rem_zero {cfg : ConfigRegs} {b : ByteState} (byte : Byte) (hidle : b.rem = 0#5) :
    pushByte cfg byte b =
      ({ cur := frameWord cfg.ser (maskData cfg.ser byte)
         nxt := frameWord cfg.ser (maskData cfg.ser byte)
         rem := BitVec.ofNat 5 cfg.ser.numFrame
         full := false
         tone := (frameWord cfg.ser (maskData cfg.ser byte)).getLsbD 0
         timer := cfg.spb }, true) :=
  pushByte_idle byte ((toNat_eq_zero_iff _).2 hidle)

/-- Busy, the word pushed fills the slot (46_transmit.md R135). -/
theorem pushByte_of_rem_ne_zero {cfg : ConfigRegs} {b : ByteState} (byte : Byte) (hbusy : b.rem ≠ 0#5) :
    pushByte cfg byte b =
      ({ b with nxt := frameWord cfg.ser (maskData cfg.ser byte), full := true }, false) :=
  pushByte_busy byte (mt (toNat_eq_zero_iff _).1 hbusy)

/-- The response of a push holds PROMOTED alone (30_encoding.md R72, R73). -/
theorem responseWord_flagPromoted (promoted : Bool) :
    responseWord .ok (flagPromoted promoted) 0#16 = if promoted then 0x00010000#32 else 0x00000000#32 := by
  cases promoted <;> decide

/-- Settles O44: the byte is promoted when idle and queued when busy. -/
theorem txPushCompletes : Obligations.TxPushCompletes := by
  intro s byte hen hfull
  have hexec := exec_txPush_of_slot_empty byte hen hfull
  rw [responseWord_flagPromoted] at hexec
  refine ⟨fun hidle => ?_, fun hbusy => ?_⟩
  · rw [hexec, pushByte_of_rem_zero byte hidle]
    rfl
  · rw [hexec, pushByte_of_rem_ne_zero byte hbusy]
    rfl

/-- Settles O45: the refusal of a full slot. -/
theorem txPushOverrun : Obligations.TxPushOverrun := fun _ byte hen hfull =>
  exec_txPush_of_slot_full byte hen hfull

/-- The bit boundary test by its three results (46_transmit.md R138). -/
theorem bitBoundary_eq (cfg : ConfigRegs) (b : ByteState) :
    bitBoundary cfg b =
      { byte := if b.timer = 0#16 then { (tick cfg.ser b).1 with timer := cfg.spb } else b
        tick := decide (b.timer = 0#16)
        promoted := if b.timer = 0#16 then (tick cfg.ser b).2 else false } := by
  by_cases h : b.timer = 0#16
  · simp only [bitBoundary_tick h, h, if_true, decide_true]
  · simp only [bitBoundary_hold h, h, if_false, decide_false]

/-- The response of a sample, from the status down (30_encoding.md R72, R73). -/
theorem responseWord_sampleFlags (k : Boundary) (data : RegVal) :
    responseWord .ok (sampleFlags k) data =
      0#11 ++ BitVec.ofBool k.byte.full ++ BitVec.ofBool (txBusy k.byte) ++ BitVec.ofBool k.byte.tone ++
        BitVec.ofBool k.tick ++ BitVec.ofBool k.promoted ++ data := by
  apply BitVec.eq_of_toNat_eq
  rw [responseWord, sampleFlags_eq]
  simp only [toNat_append_eq, Status.code, BitVec.toNat_ofNat]
  omega

/-- Settles O46: the bit boundary test, then one sample of the tone it leaves. -/
theorem txSampleCompletes : Obligations.TxSampleCompletes := by
  intro s hen
  refine (exec_txSample_of_enabled hen).trans ?_
  rw [responseWord_sampleFlags, bitBoundary_eq]
  rfl

/-! ### The case table -/

/-- Idle with an empty slot, a tick only returns to the mark tone (46_transmit.md R142). -/
theorem tick_idle (ser : SerCfg) {b : ByteState} (hfull : b.full = false) (hidle : b.rem = 0#5) :
    tick ser b = ({ b with tone := true }, false) := by
  have hshift := shiftOut_idle hidle
  rw [tick_continues (.inr (by rwa [hshift])), hshift, toneOf,
    if_neg fun hpos => (toNat_pos_iff _).1 hpos hidle]

/-- With bits left after the shift, or no byte pending, a tick goes on with the current word, or to the mark
tone behind its last bit (46_transmit.md R142). -/
theorem tick_shifts (ser : SerCfg) {b : ByteState} (hbusy : b.rem ≠ 0#5)
    (hgoes : b.rem ≠ 1#5 ∨ b.full = false) :
    tick ser b =
      ({ b with cur := b.cur >>> 1, rem := b.rem - 1#5
                tone := if b.rem = 1#5 then true else b.cur.getLsbD 1 }, false) := by
  have hshift := shiftOut_busy hbusy
  have hlast : b.rem - 1#5 = 0#5 ↔ b.rem = 1#5 := sub_eq_zero
  rw [tick_continues (by rw [hshift]; exact hgoes.imp_left (mt hlast.1)), hshift, toneOf]
  by_cases h : b.rem = 1#5
  · simp [h]
  · rw [if_neg h, if_pos ((toNat_pos_iff _).2 (mt hlast.1 h)), BitVec.getLsbD_ushiftRight]

/-- With a byte pending, the tick that leaves no bits promotes it (46_transmit.md R136, R142). -/
theorem tick_promotes_pending (ser : SerCfg) {b : ByteState} (hfull : b.full = true)
    (hends : b.rem = 0#5 ∨ b.rem = 1#5) :
    tick ser b =
      ({ b with cur := b.nxt, rem := BitVec.ofNat 5 ser.numFrame, full := false, tone := b.nxt.getLsbD 0 },
        true) := by
  rcases hends with hidle | hlast
  · have hshift := shiftOut_idle hidle
    rw [tick_promotes (by rwa [hshift]) (by rwa [hshift]), hshift]
    rfl
  · have hshift := shiftOut_busy (b := b) (by rw [hlast]; decide)
    rw [tick_promotes (by rw [hshift, hlast]; rfl) (by rwa [hshift]), hshift]
    rfl

/-- Settles O43: the refusal of a full slot, and the rows of TX_PUSH and TICK. -/
theorem transmitCaseTable : Obligations.TransmitCaseTable := by
  refine ⟨fun s byte hen hfull => ⟨_, exec_txPush_of_slot_full byte hen hfull, rfl, rfl, rfl⟩, ?_⟩
  intro cfg byte b
  refine ⟨fun _ => pushByte_of_rem_zero byte, fun _ => pushByte_of_rem_ne_zero byte, tick_idle cfg.ser,
    fun hfull hbusy => tick_shifts cfg.ser hbusy (.inr hfull),
    fun hfull hlast => tick_promotes_pending cfg.ser hfull (.inr hlast), fun _ hrem => ?_,
    fun hfull hidle => tick_promotes_pending cfg.ser hfull (.inl hidle)⟩
  have hbusy : b.rem ≠ 0#5 := (toNat_pos_iff _).1 (by omega)
  have hmore : b.rem ≠ 1#5 := fun h => by
    rw [h] at hrem
    exact absurd hrem (by decide)
  rw [tick_shifts cfg.ser hbusy (.inl hmore), if_neg hmore]

end Sys2Proof.Proofs
end

section
/-! A frame sample by sample: the bit boundary test of each TX_SAMPLE after a push that is promoted at once,
the end of the frame, and the byte pending behind it (46_transmit.md R134, R138, R139, R141). -/

namespace Sys2Proof.Proofs

open Sys2Proof Sys2Proof.Machine Sys2Proof.Laws

/-! ### The flags of a sample -/

/-- The flags of TX_SAMPLE at their bits of the response word (30_encoding.md R72, R73). -/
theorem getLsbD_responseWord_sampleFlags (k : Boundary) (data : RegVal) :
    let p := responseWord .ok (sampleFlags k) data
    p.getLsbD 16 = k.promoted ∧ p.getLsbD 17 = k.tick ∧ p.getLsbD 18 = k.byte.tone ∧
      p.getLsbD 19 = txBusy k.byte ∧ p.getLsbD 20 = k.byte.full := by
  simp only [responseWord_sampleFlags, BitVec.getLsbD_append]
  simp

/-- What a TX_SAMPLE leaves and answers, given what its bit boundary test did: the timer counts the sample, and
bits 16 to 20 of the response are PROMOTED, TICK, TONE, BUSY and FULL (46_transmit.md R138, 30_encoding.md R73). -/
def SampledAt (k : Boundary) (t : State) : Prop :=
  t.tx.byte = { k.byte with timer := k.byte.timer - 1#16 } ∧
    ∃ p, t.responses.getLast? = some p ∧ p.getLsbD 16 = k.promoted ∧ p.getLsbD 17 = k.tick ∧
      p.getLsbD 18 = k.byte.tone ∧ p.getLsbD 19 = txBusy k.byte ∧ p.getLsbD 20 = k.byte.full

/-- One sample, by the bit boundary test it makes. -/
theorem sampledAt_txSample {s : State} {k : Boundary} (hen : s.ctl.txEn = true)
    (hk : bitBoundary s.cfg s.tx.byte = k) : SampledAt k (afterCommand .txSample s) := by
  rw [afterCommand_txSample hen, hk]
  exact ⟨rfl, _, List.getLast?_concat, getLsbD_responseWord_sampleFlags k _⟩

/-! ### The samples of a frame -/

/-- The transmit state once n samples of a frame have been sent. -/
def frameAfter (cfg : ConfigRegs) (w : TxWord) (n : Nat) : ByteState :=
  (sampleByte cfg)^[n] (sending cfg w 0 cfg.spb.toNat)

/-- A push that is promoted at once, and the samples after it. -/
theorem afterCommands_push_samples {s : State} (byte : Byte) (hen : s.ctl.txEn = true)
    (hidle : s.tx.byte.rem = 0#5) (hfull : s.tx.byte.full = false) (n : Nat) :
    let t := afterCommands (.txPush byte :: List.replicate n .txSample) s
    t.cfg = s.cfg ∧ t.ctl = s.ctl ∧
      t.tx.byte = frameAfter s.cfg (frameWord s.cfg.ser (maskData s.cfg.ser byte)) n := by
  obtain ⟨hcfg, hctl, hbyte⟩ := afterCommand_txPush_idle byte hen hidle hfull
  obtain ⟨hcfg', hctl', hrun⟩ := afterCommands_txSample (by rw [hctl, hen]) n
  rw [afterCommands_cons]
  exact ⟨hcfg'.trans hcfg, hctl'.trans hctl, by rw [hrun, hcfg, hbyte, frameAfter]⟩

/-- Sample n + 1 after a push that is promoted at once, by the bit boundary test it makes. -/
theorem sampledAt_after_push {s : State} (byte : Byte) (hen : s.ctl.txEn = true) (hidle : s.tx.byte.rem = 0#5)
    (hfull : s.tx.byte.full = false) {n : Nat} {k : Boundary}
    (hk : bitBoundary s.cfg (frameAfter s.cfg (frameWord s.cfg.ser (maskData s.cfg.ser byte)) n) = k) :
    SampledAt k (afterCommands (.txPush byte :: List.replicate (n + 1) .txSample) s) := by
  obtain ⟨hcfg, hctl, hbyte⟩ := afterCommands_push_samples byte hen hidle hfull n
  rw [afterCommands_cons] at hcfg hctl hbyte ⊢
  rw [afterCommands_replicate_succ]
  exact sampledAt_txSample (by rw [hctl, hen]) (by rw [hcfg, hbyte, hk])

/-- One more sample of a frame. -/
theorem frameAfter_succ (cfg : ConfigRegs) (w : TxWord) (n : Nat) :
    frameAfter cfg w (n + 1) = sampleByte cfg (frameAfter cfg w n) := by
  rw [frameAfter, frameAfter, Function.iterate_succ_apply']

/-- Within bit k the samples left of it (46_transmit.md R139). -/
theorem frameAfter_within {cfg : ConfigRegs} (hcfg : TxConfigLegal cfg) (w : TxWord) {k : Nat}
    (hk : k < cfg.ser.numFrame) {j : Nat} (hj : j < cfg.spb.toNat) :
    frameAfter cfg w (k * cfg.spb.toNat + (j + 1)) = sending cfg w k (cfg.spb.toNat - (j + 1)) := by
  rw [frameAfter, show k * cfg.spb.toNat + (j + 1) = j + (k * cfg.spb.toNat + 1) by omega,
    iterate_sampleByte hcfg w hk hj, Nat.sub_sub, Nat.add_comm 1]

/-- At the end of a bit none are left of it (46_transmit.md R139). -/
theorem frameAfter_bit_end {cfg : ConfigRegs} (hcfg : TxConfigLegal cfg) (w : TxWord) {k : Nat}
    (hk : k < cfg.ser.numFrame) : frameAfter cfg w ((k + 1) * cfg.spb.toNat) = sending cfg w k 0 := by
  have ⟨_, hpos, _⟩ := hcfg
  have hlast := frameAfter_within hcfg w hk (j := cfg.spb.toNat - 1) (by omega)
  rwa [Nat.sub_add_cancel hpos, Nat.sub_self, ← Nat.succ_mul] at hlast

/-- At the end of a frame no sample of its last bit is left (46_transmit.md R139). -/
theorem frameAfter_end {cfg : ConfigRegs} (hcfg : TxConfigLegal cfg) (w : TxWord) :
    frameAfter cfg w (cfg.ser.numFrame * cfg.spb.toNat) = sending cfg w (cfg.ser.numFrame - 1) 0 := by
  have hlast := last_lt_numFrame cfg.ser
  have h := frameAfter_bit_end hcfg w hlast
  rwa [Nat.sub_add_cancel (by omega)] at h

/-- A bit boundary within a frame sends its next bit (46_transmit.md R137). -/
theorem tick_sending {cfg : ConfigRegs} (hcfg : TxConfigLegal cfg) (w : TxWord) {k : Nat}
    (hk : k + 1 < cfg.ser.numFrame) (left : Nat) :
    tick cfg.ser (sending cfg w k left) = (sending cfg w (k + 1) left, false) := by
  have hbusy := sending_rem_ne_zero hcfg w hk left
  have hshift := shiftOut_sending hcfg w (Nat.lt_of_succ_lt hk) left
  rw [tick_continues (by rw [hshift]; exact .inl hbusy), hshift, toneOf, if_pos ((toNat_pos_iff _).2 hbusy)]
  simp [sending]

/-- With samples left, the bit boundary test leaves the frame as it is (46_transmit.md R138). -/
theorem bitBoundary_sending_hold (cfg : ConfigRegs) (w : TxWord) (k : Nat) {left : Nat} (hpos : 1 ≤ left)
    (hfits : left < 2 ^ 16) :
    bitBoundary cfg (sending cfg w k left) =
      { byte := sending cfg w k left, tick := false, promoted := false } := by
  refine bitBoundary_hold ?_
  rw [← toNat_pos_iff, sending, BitVec.toNat_ofNat]
  omega

/-- R139: sample k·SPB + j + 1 sends bit k with SPB - j samples left of it, and ticks when it is the first of
a bit behind the start bit. -/
theorem bitBoundary_frameAfter {cfg : ConfigRegs} (hcfg : TxConfigLegal cfg) (w : TxWord) {k j : Nat}
    (hk : k < cfg.ser.numFrame) (hj : j < cfg.spb.toNat) :
    bitBoundary cfg (frameAfter cfg w (k * cfg.spb.toNat + j)) =
      { byte := sending cfg w k (cfg.spb.toNat - j), tick := decide (j = 0 ∧ 1 ≤ k), promoted := false } := by
  have hspb := cfg.spb.isLt
  cases j with
  | succ j =>
    rw [frameAfter_within hcfg w hk (Nat.lt_of_succ_lt hj),
      bitBoundary_sending_hold cfg w k (by omega) (by omega)]
    simp
  | zero =>
    cases k with
    | zero =>
      rw [Nat.zero_mul, Nat.add_zero, frameAfter, Function.iterate_zero_apply,
        bitBoundary_sending_hold cfg w 0 (by omega) hspb]
      simp
    | succ k =>
      rw [Nat.add_zero, frameAfter_bit_end hcfg w (Nat.lt_of_succ_lt hk), bitBoundary_tick rfl,
        tick_sending hcfg w hk]
      simp [sending]

/-- A frame in progress is busy. -/
theorem txBusy_sending {cfg : ConfigRegs} (hcfg : TxConfigLegal cfg) (w : TxWord) {k : Nat}
    (hk : k < cfg.ser.numFrame) (left : Nat) : txBusy (sending cfg w k left) = true :=
  decide_eq_true ((toNat_pos_iff _).2 (sending_rem_ne_zero hcfg w hk left))

/-- The shift of a frame's last bit leaves no bits (46_transmit.md R137). -/
theorem shiftOut_sending_last {cfg : ConfigRegs} (hcfg : TxConfigLegal cfg) (w : TxWord) (left : Nat) :
    (shiftOut (sending cfg w (cfg.ser.numFrame - 1) left)).rem = 0#5 := by
  have hlast := last_lt_numFrame cfg.ser
  rw [shiftOut_sending hcfg w hlast, sending, Nat.sub_add_cancel (by omega), Nat.sub_self]

/-- R139: with no byte pending, the tick behind a frame's last bit ends it on the mark tone. -/
theorem tick_sending_last {cfg : ConfigRegs} (hcfg : TxConfigLegal cfg) (w : TxWord) (left : Nat) :
    tick cfg.ser (sending cfg w (cfg.ser.numFrame - 1) left) =
      ({ sending cfg w cfg.ser.numFrame left with tone := true }, false) := by
  have hrem := shiftOut_sending_last hcfg w left
  have hlast := last_lt_numFrame cfg.ser
  have hshift := shiftOut_sending hcfg w hlast left
  rw [tick_continues (.inr (by rw [hshift]; rfl)), toneOf, if_neg (by rw [hrem]; decide), hshift,
    Nat.sub_add_cancel (by omega)]

/-- Settles O47: each sample by its bit boundary test. -/
theorem frameBitsHeldForSpbSamples : Obligations.FrameBitsHeldForSpbSamples := by
  intro s byte hen hcfg hidle hfull
  refine ⟨fun k j hk hj => ?_, ?_⟩
  · obtain ⟨hbyte, p, hp, h16, h17, h18, h19, h20⟩ :=
      sampledAt_after_push byte hen hidle hfull (bitBoundary_frameAfter hcfg _ hk hj)
    exact ⟨by rw [hbyte]; rfl, p, hp, h16, h17, h18, h19.trans (txBusy_sending hcfg _ hk _), h20⟩
  · obtain ⟨hbyte, p, hp, -, h17, h18, h19, -⟩ :=
      sampledAt_after_push byte hen hidle hfull ((congrArg _ (frameAfter_end hcfg _)).trans (bitBoundary_tick rfl))
    rw [tick_sending_last hcfg] at hbyte h18 h19
    have hrem : (BitVec.ofNat 5 (s.cfg.ser.numFrame - s.cfg.ser.numFrame)) = 0#5 := by rw [Nat.sub_self]
    refine ⟨by rw [hbyte]; exact hrem, by rw [hbyte], p, hp, h17, h18, h19.trans ?_⟩
    simp [txBusy, sending]

/-! ### A byte pending behind the frame -/

/-- The same transmit state with a word in the pending slot (46_transmit.md R135). -/
def queued (w : TxWord) (b : ByteState) : ByteState := { b with nxt := w, full := true }

/-- Busy, a pushed byte is queued (46_transmit.md R135). -/
theorem pushByte_eq_queued {cfg : ConfigRegs} {b : ByteState} (byte : Byte) (hbusy : b.rem ≠ 0#5) :
    pushByte cfg byte b = (queued (frameWord cfg.ser (maskData cfg.ser byte)) b, false) :=
  pushByte_of_rem_ne_zero byte hbusy

/-- The shift of a bit boundary does not read the slot (46_transmit.md R137). -/
theorem shiftOut_queued (w : TxWord) (b : ByteState) : shiftOut (queued w b) = queued w (shiftOut b) := by
  by_cases h : b.rem = 0#5
  · rw [shiftOut_idle h, shiftOut_idle (b := queued w b) h]
  · rw [shiftOut_busy h, shiftOut_busy (b := queued w b) h]
    rfl

/-- A pending byte waits while the sample leaves bits of the frame, and is then no part of what it does
(46_transmit.md R137, R138). -/
theorem sampleByte_queued {cfg : ConfigRegs} {b : ByteState} (w : TxWord)
    (hpromoted : (bitBoundary cfg b).promoted = false) (hbusy : (bitBoundary cfg b).byte.rem ≠ 0#5) :
    sampleByte cfg (queued w b) = queued w (sampleByte cfg b) := by
  by_cases htimer : b.timer = 0#16
  · rw [bitBoundary_tick htimer] at hpromoted hbusy
    have hbits : (shiftOut b).rem ≠ 0#5 := fun hempty => by
      cases hfull : (shiftOut b).full with
      | true => simp [tick_promotes hempty hfull] at hpromoted
      | false => simp [tick_continues (.inr hfull), hempty] at hbusy
    have htick : tick cfg.ser (queued w b) = (queued w (tick cfg.ser b).1, false) := by
      rw [tick_continues (.inl (by rw [shiftOut_queued]; exact hbits)), tick_continues (.inl hbits),
        shiftOut_queued]
      rfl
    rw [sampleByte, sampleByte, bitBoundary_tick htimer, bitBoundary_tick (b := queued w b) htimer, htick]
    rfl
  · rw [sampleByte, sampleByte, bitBoundary_hold htimer, bitBoundary_hold (b := queued w b) htimer]
    rfl

/-- Each sample of a frame leaves bits of it, and promotes nothing (46_transmit.md R139). -/
theorem bitBoundary_frameAfter_busy {cfg : ConfigRegs} (hcfg : TxConfigLegal cfg) (w : TxWord) {n : Nat}
    (hn : n < cfg.ser.numFrame * cfg.spb.toNat) :
    (bitBoundary cfg (frameAfter cfg w n)).promoted = false ∧
      (bitBoundary cfg (frameAfter cfg w n)).byte.rem ≠ 0#5 ∧
      (bitBoundary cfg (frameAfter cfg w n)).byte.full = false := by
  have ⟨_, hpos, _⟩ := hcfg
  have hk : n / cfg.spb.toNat < cfg.ser.numFrame := (Nat.div_lt_iff_lt_mul hpos).2 hn
  have hboundary := bitBoundary_frameAfter hcfg w hk (Nat.mod_lt n hpos)
  rw [Nat.div_add_mod'] at hboundary
  rw [hboundary]
  exact ⟨rfl, sending_rem_ne_zero hcfg w hk _, rfl⟩

/-- Up to the end of its last sample a frame is busy with its slot empty (46_transmit.md R139). -/
theorem frameAfter_busy {cfg : ConfigRegs} (hcfg : TxConfigLegal cfg) (w : TxWord) {n : Nat}
    (hn : n ≤ cfg.ser.numFrame * cfg.spb.toNat) :
    (frameAfter cfg w n).rem ≠ 0#5 ∧ (frameAfter cfg w n).full = false := by
  cases n with
  | zero => exact ⟨sending_rem_ne_zero hcfg w (Nat.zero_lt_of_lt (last_lt_numFrame cfg.ser)) _, rfl⟩
  | succ n =>
    rw [frameAfter_succ]
    exact (bitBoundary_frameAfter_busy hcfg w hn).2

/-- A byte pending within a frame waits until the frame's last sample has been sent (46_transmit.md R141). -/
theorem iterate_sampleByte_queued {cfg : ConfigRegs} (hcfg : TxConfigLegal cfg) (w w' : TxWord) {m n : Nat}
    (hfits : m + n ≤ cfg.ser.numFrame * cfg.spb.toNat) :
    (sampleByte cfg)^[n] (queued w' (frameAfter cfg w m)) = queued w' (frameAfter cfg w (m + n)) := by
  induction n with
  | zero => rfl
  | succ n ih =>
    obtain ⟨hpromoted, hbusy, -⟩ := bitBoundary_frameAfter_busy (n := m + n) hcfg w hfits
    rw [Function.iterate_succ_apply', ih (by omega), sampleByte_queued w' hpromoted hbusy, ← Nat.add_assoc,
      frameAfter_succ]

/-- R141: with a byte pending, the tick behind a frame's last bit starts the next frame. -/
theorem bitBoundary_frameAfter_end_queued {cfg : ConfigRegs} (hcfg : TxConfigLegal cfg) (w w' : TxWord) :
    bitBoundary cfg (queued w' (frameAfter cfg w (cfg.ser.numFrame * cfg.spb.toNat))) =
      { byte := sending cfg w' 0 cfg.spb.toNat, tick := true, promoted := true } := by
  have hshift := shiftOut_queued w' (sending cfg w (cfg.ser.numFrame - 1) 0)
  have hempty := shiftOut_sending_last hcfg w 0
  rw [frameAfter_end hcfg, bitBoundary_tick rfl, tick_promotes (by rw [hshift]; exact hempty)
    (by rw [hshift]; rfl), hshift]
  simp [sending, promote, queued]

/-- A push within a frame is answered 0 and queued (46_transmit.md R135, R141). -/
theorem push_within_frame {s : State} (first second : Byte) (hen : s.ctl.txEn = true)
    (hcfg : TxConfigLegal s.cfg) (hidle : s.tx.byte.rem = 0#5) (hfull : s.tx.byte.full = false) {m : Nat}
    (hm : m ≤ s.cfg.ser.numFrame * s.cfg.spb.toNat) :
    let t := afterCommands (.txPush first :: List.replicate m .txSample ++ [.txPush second]) s
    t.cfg = s.cfg ∧ t.ctl = s.ctl ∧ t.responses.getLast? = some 0x00000000#32 ∧
      t.tx.byte = queued (frameWord s.cfg.ser (maskData s.cfg.ser second))
        (frameAfter s.cfg (frameWord s.cfg.ser (maskData s.cfg.ser first)) m) := by
  obtain ⟨hcfg', hctl', hbyte'⟩ := afterCommands_push_samples first hen hidle hfull m
  obtain ⟨hbusy, hempty⟩ := frameAfter_busy hcfg (frameWord s.cfg.ser (maskData s.cfg.ser first)) hm
  rw [← hbyte'] at hbusy hempty
  obtain ⟨-, hqueue⟩ := txPushCompletes _ second (by rw [hctl', hen]) hempty
  rw [afterCommands_append, afterCommands_cons, afterCommands_nil, afterCommand_next (hqueue hbusy)]
  exact ⟨hcfg', hctl', List.getLast?_concat, by rw [← hbyte', ← hcfg']; rfl⟩

/-- Settles O48: the byte is queued, waits for the end of the frame, and is promoted by the tick behind it. -/
theorem gaplessTransmission : Obligations.GaplessTransmission := by
  intro s first second m hen hcfg hidle hfull hm rest pushed t
  have ⟨hser, hspb⟩ := hcfg
  obtain ⟨hcfg', hctl', hresponse, hbyte'⟩ := push_within_frame first second hen hcfg hidle hfull hm
  obtain ⟨hcfg'', hctl'', hrun⟩ := afterCommands_txSample (s := pushed) (by rw [hctl', hen]) rest
  rw [hbyte', hcfg', iterate_sampleByte_queued hcfg _ _ (by omega), Nat.add_sub_of_le hm] at hrun
  have hsample := sampledAt_txSample (by rw [hctl'', hctl', hen])
    ((congrArg₂ bitBoundary (hcfg''.trans hcfg') hrun).trans (bitBoundary_frameAfter_end_queued hcfg _ _))
  obtain ⟨hbyte, p, hp, h16, h17, h18, h19, -⟩ := hsample
  have ht : t = afterCommand .txSample (afterCommands (List.replicate rest .txSample) pushed) :=
    afterCommands_append _ _ _
  obtain ⟨-, hstart, -⟩ := frameWordBits s.cfg.ser second hser
  rw [← ht] at hbyte hp
  refine ⟨hresponse, ?_⟩
  rw [hbyte]
  refine ⟨?cur, ?rem, rfl, hstart, ?timer, p, hp, h16, h17, h18.trans hstart, ?busy⟩
  case cur => exact BitVec.ushiftRight_zero _
  case rem => exact toNat_ofNat_numFrame hser
  case timer =>
    simp only [sending, BitVec.ofNat_toNat, BitVec.setWidth_eq]
    exact toNat_sub_one s.cfg.spb (one_le_toInt_of_countLegal hspb)
  case busy => exact h19.trans (txBusy_sending hcfg _ (Nat.zero_lt_of_lt (last_lt_numFrame s.cfg.ser)) _)

end Sys2Proof.Proofs
end

section
/-! The control commands: NOP, RDREG, STOP and SRST in every state, CHECK's mask bit by bit, and START by its
mask (47_control.md R144 to R151). -/

namespace Sys2Proof.Proofs

open Sys2Proof Sys2Proof.Machine Sys2Proof.Laws

/-! ### NOP, RDREG and STOP -/

/-- Settles O13: NOP is one OK response with no flag and no data. -/
theorem nopCompletes : Obligations.NopCompletes := fun s => by
  change respond .ok 0#12 0#16 s = _
  rw [respond_eq, responseWord_ok]
  rfl

/-- Settles O15, from what RDREG of a mapped number answers. -/
theorem rdregCompletes : Obligations.RdregCompletes := fun s _ _ hr => exec_rdreg_mapped s hr rfl

/-- The enables after STOP, each by whether its pipeline is selected (47_control.md R151). -/
theorem control_stop_eq (rx tx : Bool) (c : Control) :
    { c with rxEn := c.rxEn && !rx, txEn := c.txEn && !tx } =
      { c with rxEn := if rx then false else c.rxEn, txEn := if tx then false else c.txEn } := by
  rw [and_not_eq_ite, and_not_eq_ite]

/-- Settles O24: STOP writes the enables alone. -/
theorem stopClearsEnables : Obligations.StopClearsEnables := fun rx tx s =>
  ⟨_, rfl, rfl, rfl, rfl, rfl, rfl, rfl, control_stop_eq rx tx s.ctl⟩

/-! ### SRST -/

/-- Every CFG register and table entry reads 0 at reset (10_state.md R44). -/
theorem readCfg_reset (r : CfgReg) : readCfg State.reset r = 0#16 := by
  cases r with
  | thresh j => exact Vector.getElem_replicate j.isLt
  | coef i => exact Vector.getElem_replicate i.isLt
  | step f => exact Vector.getElem_replicate f.isLt
  | lut i => exact congrArg (BitVec.setWidth 16) (Vector.getElem_replicate i.isLt)
  | _ => rfl

/-- The filter history at reset is cleared (10_state.md R44). -/
theorem filterCleared_reset : FilterCleared FilterState.reset :=
  ⟨fun j => ⟨Vector.getElem_replicate j.isLt, Vector.getElem_replicate j.isLt⟩, rfl⟩

/-- The energy estimator at reset is cleared (10_state.md R44). -/
theorem energyCleared_reset : EnergyCleared EnergyState.reset :=
  ⟨fun j => Vector.getElem_replicate j.isLt, rfl, rfl, rfl⟩

/-- RX_INIT gives the receive session its initial state (70_reset_and_hazards.md R174). -/
theorem rxInitial_rxInit : RxInitial rxInit :=
  ⟨filterCleared_reset, filterCleared_reset, energyCleared_reset, energyCleared_reset, rfl, by decide, rfl,
    rfl, rfl, rfl⟩

/-- TX_INIT clears the transmit session and leaves it on the mark tone (70_reset_and_hazards.md R175). -/
theorem txCleared_txInit : TxCleared true txInit := ⟨rfl, rfl, rfl, rfl, rfl, rfl, rfl⟩

/-- At power-on every state element has its reset value, the receive session that of RX_INIT (10_state.md
R44, 70_reset_and_hazards.md R172). -/
theorem atReset_reset : AtReset State.reset :=
  ⟨⟨rfl, rfl, rfl, rfl, rfl, rfl⟩, readCfg_reset, rxInitial_rxInit, rfl, rfl, rfl, rfl, rfl, rfl, rfl⟩

/-- Reset values are a matter of the block's state alone (10_state.md R44). -/
theorem atReset_of_sameBlock {s t : State} (h : SameBlock s t) (hs : AtReset s) : AtReset t := by
  have hread : ∀ r : CfgReg, readCfg t r = readCfg s r := fun r => readReg_sameBlock h (.cfg r)
  obtain ⟨-, -, hctl, hrx, htx⟩ := h
  obtain ⟨hcontrol, hcfg, hreceive, htransmit⟩ := hs
  exact ⟨hctl ▸ hcontrol, fun r => (hread r).trans (hcfg r), hrx ▸ hreceive, htx ▸ htransmit⟩

/-- Settles O11: SRST answers once RESET has run, and its response is not part of the block. -/
theorem srstResetsEveryElement : Obligations.SrstResetsEveryElement := fun s =>
  ⟨_, rfl, atReset_of_sameBlock (resetBlock_sameBlock s) atReset_reset, rfl, rfl⟩

/-! ### CHECK -/

/-- CHECK's mask bit by bit (47_control.md R149). -/
theorem getLsbD_checkMask (rx tx : Bool) (c : ConfigRegs) (i : Nat) : (checkMask rx tx c).getLsbD i =
    (decide (i = 0) && ((rx || tx) && decide (c.ser.numData < 1 ∨ c.ser.numData > 8)) ||
      decide (i = 1) && ((rx || tx) && decide (c.ser.numStop = 0)) ||
      decide (i = 2) && ((rx || tx) && decide (c.ser.numData + c.ser.numParity + c.ser.numStop > 16)) ||
      decide (i = 3) && (rx && decide (c.window.toNat < 1 ∨ c.window.toNat > 64)) ||
      decide (i = 4) && (rx && badCount c.offset) ||
      decide (i = 5) && ((rx || tx) && badCount c.spb)) := by
  simp (disch := omega) only [checkMask, BitVec.getLsbD_or, getLsbD_bitAt]

/-- The bits of CHECK's mask above its six checks are 0 (47_control.md R149). -/
theorem getLsbD_checkMask_high (rx tx : Bool) (c : ConfigRegs) {i : Nat} (hi : 6 ≤ i) :
    (checkMask rx tx c).getLsbD i = false := by
  have hne : ∀ p < 6, decide (i = p) = false := fun p hp => decide_eq_false (by omega)
  rw [getLsbD_checkMask]
  simp [hne]

/-- CHECK reports a count exactly when it is outside 1 to 32767 (47_control.md R149). -/
theorem badCount_iff (v : BitVec 16) : badCount v = true ↔ v.toNat < 1 ∨ v.toNat > 32767 :=
  decide_eq_true_iff

/-- Settles O22: each check is the one field at its bit of the mask. -/
theorem checkMaskBits : Obligations.CheckMaskBits := by
  intro rx tx c
  refine ⟨?data, ?stop, ?total, ?window, ?offset, ?spb, fun i hi => getLsbD_checkMask_high rx tx c hi⟩ <;>
    rw [getLsbD_checkMask]
  case data => simp [SerCfg.numData]
  case stop =>
    change _ ↔ _ ∧ c.ser.numStop = 0
    simp
  case total => simp [SerCfg.numData, SerCfg.numParity, SerCfg.numStop]
  case window => simp
  case offset => simp [badCount_iff]
  case spb => simp [badCount_iff]

/-- The mask is 0 when the configuration is legal for every selected pipeline (47_control.md R149). -/
theorem checkMask_eq_zero_of_configLegal {rx tx : Bool} {c : ConfigRegs}
    (hrx : rx = true → RxConfigLegal c) (htx : tx = true → TxConfigLegal c) : checkMask rx tx c = 0#16 := by
  have hany : rx = true ∨ tx = true → TxConfigLegal c := fun hsel => hsel.elim (fun h => (hrx h).1) htx
  obtain ⟨hdata, hstop, htotal, hwindow, hoffset, hspb, hhigh⟩ := checkMaskBits rx tx c
  refine BitVec.eq_of_getLsbD_eq fun i _ => ?_
  rw [BitVec.getLsbD_zero, Bool.eq_false_iff]
  intro hbit
  match i with
  | 0 =>
    obtain ⟨hsel, hbad⟩ := hdata.1 hbit
    obtain ⟨⟨⟨hlo, hhi⟩, -⟩, -⟩ := hany hsel
    exact hbad.elim hlo.not_gt hhi.not_gt
  | 1 =>
    obtain ⟨hsel, hbad⟩ := hstop.1 hbit
    obtain ⟨⟨-, hone, -⟩, -⟩ := hany hsel
    exact absurd hbad (Nat.one_le_iff_ne_zero.1 hone)
  | 2 =>
    obtain ⟨hsel, hbad⟩ := htotal.1 hbit
    obtain ⟨⟨-, -, hfits⟩, -⟩ := hany hsel
    exact hfits.not_gt hbad
  | 3 =>
    obtain ⟨hsel, hbad⟩ := hwindow.1 hbit
    obtain ⟨-, ⟨hlo, hhi⟩, -⟩ := hrx hsel
    exact hbad.elim hlo.not_gt hhi.not_gt
  | 4 =>
    obtain ⟨hsel, hbad⟩ := hoffset.1 hbit
    obtain ⟨-, -, hlo, hhi⟩ := hrx hsel
    exact hbad.elim hlo.not_gt hhi.not_gt
  | 5 =>
    obtain ⟨hsel, hbad⟩ := hspb.1 hbit
    obtain ⟨-, hlo, hhi⟩ := hany hsel
    exact hbad.elim hlo.not_gt hhi.not_gt
  | j + 6 => exact Bool.false_ne_true ((hhigh (j + 6) (by omega)).symm.trans hbit)

/-- CHECK reports nothing exactly when the configuration is legal for every selected pipeline (47_control.md
R149). -/
theorem checkMask_eq_zero_iff (rx tx : Bool) (c : ConfigRegs) : checkMask rx tx c = 0#16 ↔
    (rx = true → RxConfigLegal c) ∧ (tx = true → TxConfigLegal c) :=
  ⟨configLegal_of_checkMask, fun ⟨hrx, htx⟩ => checkMask_eq_zero_of_configLegal hrx htx⟩

/-! ### START -/

/-- START with no failed check opens the selected sessions (47_control.md R148). -/
theorem exec_start_of_checkMask_eq_zero {rx tx : Bool} {s : State} (hmask : checkMask rx tx s.cfg = 0#16) :
    exec (.start rx tx) s = .next ((openSessions rx tx s).answered 0x00000000#32) := by
  change execStart rx tx s = _
  rw [execStart, if_neg (not_not.2 hmask), respond_eq, responseWord_ok]
  rfl

/-- START with a failed check answers CONFIG with the mask, and changes nothing (47_control.md R150). -/
theorem exec_start_of_checkMask_ne_zero {rx tx : Bool} {s : State} (hmask : checkMask rx tx s.cfg ≠ 0#16) :
    exec (.start rx tx) s = .next (s.answered (0x5000#16 ++ checkMask rx tx s.cfg)) := by
  have hword : responseWord .config 0#12 (checkMask rx tx s.cfg) = 0x5000#16 ++ checkMask rx tx s.cfg := rfl
  change execStart rx tx s = _
  rw [execStart, if_pos hmask, raise_eq, hword]

/-- START leaves each selected session at its initial state, and the other as it is (47_control.md R148). -/
theorem openSessions_initial (rx tx : Bool) (s : State) :
    (if rx then RxInitial (openSessions rx tx s).rx else (openSessions rx tx s).rx = s.rx) ∧
      (if tx then TxCleared true (openSessions rx tx s).tx else (openSessions rx tx s).tx = s.tx) := by
  constructor
  · cases rx with
    | true => exact rxInitial_rxInit
    | false => rfl
  · cases tx with
    | true => exact txCleared_txInit
    | false => rfl

/-- Settles O23: the mask is 0 exactly when every selected session may open, and START goes by the mask. -/
theorem startOpensAllOrNothing : Obligations.StartOpensAllOrNothing := by
  intro rx tx s
  rw [← checkMask_eq_zero_iff]
  refine ⟨fun hmask => ?legal, fun hmask => ⟨hmask, exec_start_of_checkMask_ne_zero hmask⟩⟩
  case legal =>
    exact ⟨_, exec_start_of_checkMask_eq_zero hmask, rfl, rfl, rfl, rfl, rfl, openSessions_initial rx tx s⟩

end Sys2Proof.Proofs
end

section
/-! Refusals: the step with no input and on the reset input, illegal words, the accesses to registers that are
refused, the pump commands by their enables, and what the response to any command word can be (60_exceptions.md
R153 to R171). -/

namespace Sys2Proof.Proofs

open Sys2Proof Sys2Proof.Machine Sys2Proof.Laws

/-! ### The step without a command word -/

/-- A step with no input waits (60_exceptions.md R168). -/
theorem step_nil {s : State} (hin : s.inputs = []) : step s = .next s := by
  rw [step, takeInput_nil hin]
  rfl

/-- A step whose next input is the reset input takes it and resets the block (70_reset_and_hazards.md R172). -/
theorem step_resetInput {s : State} {rest : List PortInput} (hin : s.inputs = .resetInput :: rest) :
    step s = .next (resetBlock { s with inputs := rest }) := by
  rw [step, takeInput_cons hin]
  rfl

/-- Settles O6: RESET keeps the port and gives every other part its reset value. -/
theorem stepWaitsOrTakesReset : Obligations.StepWaitsOrTakesReset :=
  ⟨fun _ hin => step_nil hin, fun s rest hin =>
    ⟨_, step_resetInput hin, resetBlock_inputs { s with inputs := rest },
      resetBlock_responses { s with inputs := rest }, resetBlock_sameBlock { s with inputs := rest }⟩⟩

/-! ### Illegal words -/

/-- A well formed word has an assigned opcode, and no 1 in a bit that the opcode's format reserves
(30_encoding.md R75, R76). -/
theorem wellFormedWord_iff {c : CommandWord} : wellFormedWord c = true ↔
    ∃ f, formatOf (c.extractLsb' 28 4) = some f ∧ c &&& f.reserved = 0#32 := by
  cases hf : formatOf (c.extractLsb' 28 4) with
  | none => simp [wellFormedWord, opcodeAssigned, hf]
  | some f => simp [wellFormedWord, opcodeAssigned, reservedClear, hf]

/-- The opcodes 0x9 to 0xF are reserved (30_encoding.md R75). -/
theorem formatOf_reserved_opcode : ∀ op : BitVec 4, 9 ≤ op.toNat → formatOf op = none := by decide

/-- Every row of the opcode map fixes the opcode of its format and asks 0 of the bits its format reserves
(30_encoding.md R74, R76). -/
theorem opcodeTable_checks : ∀ row ∈ opcodeTable,
    formatOf (row.pattern.extractLsb' 28 4) = some row.format ∧
    row.mask.extractLsb' 28 4 = BitVec.allOnes 4 ∧
    row.mask &&& row.format.reserved = row.format.reserved ∧ row.pattern &&& row.format.reserved = 0#32 := by
  decide

/-- A word that a row matches is well formed (30_encoding.md R74 to R76). -/
theorem wellFormedWord_of_row {row : OpcodeRow} (hrow : row ∈ opcodeTable) {c : CommandWord}
    (h : c &&& row.mask = row.pattern) : wellFormedWord c = true := by
  obtain ⟨hformat, hopcode, hmask, hpattern⟩ := opcodeTable_checks row hrow
  refine wellFormedWord_iff.2 ⟨row.format, ?opcode, ?reserved⟩
  case opcode => rwa [field_of_and_eq h 28 4 hopcode]
  case reserved =>
    calc c &&& row.format.reserved = c &&& row.mask &&& row.format.reserved := by
          rw [BitVec.and_assoc, hmask]
      _ = 0#32 := by rw [h, hpattern]

/-- A word that decodes to a command is well formed: it stands in the command's row. -/
theorem wellFormedWord_of_decode {c : CommandWord} {i : Instr} (h : decode c = .ok i) :
    wellFormedWord c = true := by
  obtain ⟨hrow, -⟩ := encodingInRow i
  exact wellFormedWord_of_row hrow ((row_matches_iff hrow c).2 ⟨i, h, rfl⟩)

/-- A reserved opcode, or a 1 in a reserved field, is illegal (60_exceptions.md R158). -/
theorem not_wellFormedWord {c : CommandWord} (h : 9 ≤ (c.extractLsb' 28 4).toNat ∨
    ∃ f, formatOf (c.extractLsb' 28 4) = some f ∧ c &&& f.reserved ≠ 0#32) : ¬wellFormedWord c = true := by
  rw [wellFormedWord_iff]
  rintro ⟨f, hf, hclear⟩
  rcases h with hop | ⟨g, hg, hset⟩
  · rw [formatOf_reserved_opcode _ hop] at hf
    cases hf
  · rw [hf] at hg
    cases hg
    exact hset hclear

/-- Settles O3: only a well formed word decodes to a command, and any other is refused. -/
theorem illegalWordChangesNothing : Obligations.IllegalWordChangesNothing := by
  intro s c rest hin hillegal
  rw [step_command hin]
  cases hdec : decode c with
  | ok i => exact absurd (wellFormedWord_of_decode hdec) (not_wellFormedWord hillegal)
  | error e => exact runCommand_illegal hdec { s with inputs := rest }

/-! ### Refused register accesses -/

/-- Whether what a number names is an RO register. -/
def namesReadOnly : Option RegName → Bool
  | some (.ro _) => true
  | none | some .status | some (.cfg _) => false

/-- What is an RO register is one by name. -/
theorem namesReadOnly_iff {o : Option RegName} : namesReadOnly o = true ↔ ∃ r, o = some (.ro r) := by
  rcases o with _ | ⟨r⟩ | _ | ⟨r⟩ <;> simp [namesReadOnly]

/-- The numbers of ID, VERSION and the debug registers (10_state.md R17). -/
theorem namesReadOnly_regOf_iff : ∀ n : RegNum, namesReadOnly (regOf n) = true ↔
    n.toNat ≤ 0x01 ∨ (0x20 ≤ n.toNat ∧ n.toNat ≤ 0x3C) := by decide

/-- The numbers of the CFG registers name them: they are mapped, and neither RO nor STATUS (10_state.md R17). -/
theorem exists_cfg_of_number {n : RegNum} (h : (0x04 ≤ n.toNat ∧ n.toNat ≤ 0x0A) ∨
    (0x0C ≤ n.toNat ∧ n.toNat ≤ 0x1F) ∨ (0x40 ≤ n.toNat ∧ n.toNat ≤ 0x7F)) :
    ∃ r, regOf n = some (.cfg r) := by
  cases hr : regOf n with
  | none =>
    have := (regOf_eq_none_iff n).1 hr
    omega
  | some name =>
    cases name with
    | ro r =>
      have := (namesReadOnly_regOf_iff n).1 (namesReadOnly_iff.2 ⟨r, hr⟩)
      omega
    | status =>
      obtain rfl := (regOf_eq_status_iff n).1 hr
      simp at h
    | cfg r => exact ⟨r, rfl⟩

/-- WRREG of an unmapped number is refused (60_exceptions.md R159). -/
theorem exec_wrreg_unmapped {n : RegNum} (v : RegVal) (s : State) (hr : regOf n = none) :
    exec (.wrreg n v) s = .next (s.answered (responseWord .badreg 0#12 0#16)) := by
  change execWrreg n v s = _
  simp only [execWrreg, hr, raise_eq]

/-- WRREG of an RO register is refused (20_memory.md R49). -/
theorem exec_wrreg_readOnly {n : RegNum} {r : RoReg} (v : RegVal) (s : State) (hr : regOf n = some (.ro r)) :
    exec (.wrreg n v) s = .next (s.answered (responseWord .readonly 0#12 0#16)) := by
  change execWrreg n v s = _
  simp only [execWrreg, hr, raise_eq]

/-- WRREG of a CFG register while a session is enabled is refused (20_memory.md R52). -/
theorem exec_wrreg_locked {n : RegNum} {r : CfgReg} {s : State} (v : RegVal) (hr : regOf n = some (.cfg r))
    (hlock : configLocked s = true) :
    exec (.wrreg n v) s = .next (s.answered (responseWord .locked 0#12 0#16)) := by
  change execWrreg n v s = _
  simp only [execWrreg, hr, hlock, if_true, raise_eq]

/-- Settles O17: the numbers say what is accessed, and each kind has its refusal. -/
theorem registerAccessFailures : Obligations.RegisterAccessFailures := by
  refine fun s n v => ⟨fun hn => ?unmapped, fun hn => ?readOnly, fun hn hen => ?locked⟩
  case unmapped =>
    have hr := (regOf_eq_none_iff n).2 hn
    exact ⟨exec_rdreg_unmapped s hr, exec_wrreg_unmapped v s hr⟩
  case readOnly =>
    obtain ⟨r, hr⟩ := namesReadOnly_iff.1 ((namesReadOnly_regOf_iff n).2 hn)
    exact exec_wrreg_readOnly v s hr
  case locked =>
    obtain ⟨r, hr⟩ := exists_cfg_of_number hn
    exact exec_wrreg_locked v hr (configLocked_iff.2 hen)

/-! ### The pump commands by their enables -/

/-- RX_SAMPLE without its session is refused (60_exceptions.md R156). -/
theorem exec_rxSample_of_disabled {s : State} (sample : Sample) (hdis : s.ctl.rxEn = false) :
    exec (.rxSample sample) s = .next (s.answered (responseWord .disabled 0#12 0#16)) := by
  change execRxSample sample s = _
  rw [execRxSample, if_pos (by simp [hdis]), raise_eq]

/-- TX_PUSH without its session is refused (60_exceptions.md R156). -/
theorem exec_txPush_of_disabled {s : State} (byte : Byte) (hdis : s.ctl.txEn = false) :
    exec (.txPush byte) s = .next (s.answered (responseWord .disabled 0#12 0#16)) := by
  change execTxPush byte s = _
  rw [execTxPush, if_pos (by simp [hdis]), raise_eq]

/-- TX_SAMPLE without its session is refused (60_exceptions.md R156). -/
theorem exec_txSample_of_disabled {s : State} (hdis : s.ctl.txEn = false) :
    exec .txSample s = .next (s.answered (responseWord .disabled 0#12 0#16)) := by
  change execTxSample s = _
  rw [execTxSample, if_pos (by simp [hdis]), raise_eq]

/-- Settles O38, from the refusal of each pump command. -/
theorem pumpWithoutSessionDisabled : Obligations.PumpWithoutSessionDisabled := fun _ sample byte =>
  ⟨exec_rxSample_of_disabled sample, exec_txPush_of_disabled byte, exec_txSample_of_disabled⟩

/-- With its session RX_SAMPLE completes, at whichever gate it ends (60_exceptions.md R171). -/
theorem exec_rxSample_of_enabled {s : State} (sample : Sample) (hen : s.ctl.rxEn = true) :
    ∃ u flags data, exec (.rxSample sample) s = .next (State.answered u (responseWord .ok flags data)) ∧
      u.responses = s.responses := by
  obtain ⟨t, -, ht, -⟩ := answersOnce_execRxSample sample s
  rcases execRxSample_cases ht with ⟨hdis, -⟩ | ⟨-, rx, -, ⟨-, rfl⟩ | ⟨-, -, rfl⟩ | ⟨-, -, d, -, rfl⟩⟩
  · simp [hen] at hdis
  · exact ⟨_, _, _, ht, rfl⟩
  · exact ⟨_, _, _, ht, rfl⟩
  · exact ⟨_, _, _, ht, rfl⟩

/-- An outcome that is one response of a status, from a state with the responses of s, has the status code in
its response. -/
theorem exists_answer_of_status {o : StepOutcome} {s u : State} {st : Status} {flags : BitVec 12} {data : RegVal}
    (ho : o = .next (u.answered (responseWord st flags data))) (hresp : u.responses = s.responses) :
    ∃ t p, o = .next t ∧ t.responses = s.responses ++ [p] ∧ statusField p = st.code.toNat :=
  ⟨_, responseWord st flags data, ho, congrArg (· ++ [responseWord st flags data]) hresp,
    statusField_responseWord st flags data⟩

/-- Settles O10, each pump command by its enable, and TX_PUSH by the pending slot. -/
theorem enabledPumpNeverRefused : Obligations.EnabledPumpNeverRefused := by
  refine fun s sample byte => ⟨?rxSample, ?txSample, ?txPush⟩
  case rxSample =>
    cases hen : s.ctl.rxEn with
    | false => exact exists_answer_of_status (exec_rxSample_of_disabled sample hen) rfl
    | true =>
      obtain ⟨u, flags, data, hexec, hresp⟩ := exec_rxSample_of_enabled sample hen
      exact exists_answer_of_status hexec hresp
  case txSample =>
    cases hen : s.ctl.txEn with
    | false => exact exists_answer_of_status (exec_txSample_of_disabled hen) rfl
    | true => exact exists_answer_of_status (exec_txSample_of_enabled hen) rfl
  case txPush =>
    cases hen : s.ctl.txEn with
    | false => exact exists_answer_of_status (exec_txPush_of_disabled byte hen) rfl
    | true =>
      cases hfull : s.tx.byte.full with
      | false => exact exists_answer_of_status (exec_txPush_of_slot_empty byte hen hfull) rfl
      | true => exact exists_answer_of_status (exec_txPush_of_slot_full byte hen hfull) rfl

/-! ### The response to any command word -/

/-- What a command word leads to (60_exceptions.md R153, R154): it completes, or it is refused with no flag and
nothing changed, with data only from CONFIG; OVERRUN sets its sticky bit beside (R161). -/
inductive CompletedOrRefused (s : State) : State → Prop
  /-- An OK response, whatever the command has changed of the block. -/
  | completed {u : State} (flags : BitVec 12) (data : RegVal) (hin : u.inputs = s.inputs)
      (hresp : u.responses = s.responses) : CompletedOrRefused s (u.answered (responseWord .ok flags data))
  /-- A refusal but for OVERRUN. -/
  | refused (st : Status) (data : RegVal) (hovr : st ≠ .overrun) (hdata : st ≠ .config → data = 0#16) :
      CompletedOrRefused s (s.answered (responseWord st 0#12 data))
  /-- The refusal of a byte for a full slot. -/
  | overrun : CompletedOrRefused s
      (State.answered { s with ctl := { s.ctl with ovrSeen := true } } (responseWord .overrun 0#12 0#16))

/-- RDREG completes, or is refused as BADREG (47_control.md R146). -/
theorem completedOrRefused_execRdreg {reg : RegNum} {s t : State} (h : execRdreg reg s = .next t) :
    CompletedOrRefused s t := by
  rcases execRdreg_cases h with ⟨-, rfl⟩ | ⟨r, -, rfl⟩
  · exact .refused .badreg _ (by decide) fun _ => rfl
  · exact .completed _ _ rfl rfl

/-- WRREG completes, or is refused as BADREG, READONLY or LOCKED (47_control.md R147). -/
theorem completedOrRefused_execWrreg {reg : RegNum} {val : RegVal} {s t : State}
    (h : execWrreg reg val s = .next t) : CompletedOrRefused s t := by
  rcases execWrreg_cases h with ⟨-, rfl⟩ | ⟨r, -, rfl⟩ | ⟨-, rfl⟩ | ⟨r, -, -, rfl⟩ | ⟨r, -, -, rfl⟩
  · exact .refused .badreg _ (by decide) fun _ => rfl
  · exact .refused .readonly _ (by decide) fun _ => rfl
  · exact .completed _ _ rfl rfl
  · exact .refused .locked _ (by decide) fun _ => rfl
  · exact .completed _ _ (writeCfg_inputs r val s) (writeCfg_responses r val s)

/-- START completes, or is refused as CONFIG, with the mask as its data (47_control.md R148, R150). -/
theorem completedOrRefused_execStart {rx tx : Bool} {s t : State} (h : execStart rx tx s = .next t) :
    CompletedOrRefused s t := by
  rcases execStart_cases h with ⟨-, rfl⟩ | ⟨-, rfl⟩
  · exact .refused .config _ (by decide) fun hne => absurd rfl hne
  · exact .completed _ _ (openSessions_inputs rx tx s) (openSessions_responses rx tx s)

/-- RX_SAMPLE completes, or is refused as DISABLED (44_decoder.md R117). -/
theorem completedOrRefused_execRxSample {sample : Sample} {s t : State}
    (h : execRxSample sample s = .next t) : CompletedOrRefused s t := by
  rcases execRxSample_cases h with ⟨-, rfl⟩ | ⟨-, rx, -, ⟨-, rfl⟩ | ⟨-, -, rfl⟩ | ⟨-, -, d, -, rfl⟩⟩
  · exact .refused .disabled _ (by decide) fun _ => rfl
  · exact .completed _ _ rfl rfl
  · exact .completed _ _ rfl rfl
  · exact .completed _ _ rfl rfl

/-- TX_PUSH completes, or is refused as DISABLED or OVERRUN (46_transmit.md R135, R143). -/
theorem completedOrRefused_execTxPush {byte : Byte} {s t : State} (h : execTxPush byte s = .next t) :
    CompletedOrRefused s t := by
  rcases execTxPush_cases h with ⟨-, rfl⟩ | ⟨-, -, rfl⟩ | ⟨-, -, p, -, rfl⟩
  · exact .refused .disabled _ (by decide) fun _ => rfl
  · exact .overrun
  · exact .completed _ _ rfl rfl

/-- TX_SAMPLE completes, or is refused as DISABLED (46_transmit.md R138). -/
theorem completedOrRefused_execTxSample {s t : State} (h : execTxSample s = .next t) :
    CompletedOrRefused s t := by
  rcases execTxSample_cases h with ⟨-, rfl⟩ | ⟨-, k, -, rfl⟩
  · exact .refused .disabled _ (by decide) fun _ => rfl
  · exact .completed _ _ rfl rfl

/-- Every command completes or is refused (60_exceptions.md R153). -/
theorem completedOrRefused_exec {i : Instr} {s t : State} (h : exec i s = .next t) : CompletedOrRefused s t := by
  cases i with
  | nop =>
    obtain rfl := execNop_next h
    exact .completed _ _ rfl rfl
  | srst =>
    obtain rfl := execSrst_next h
    exact .completed _ _ (resetBlock_inputs s) (resetBlock_responses s)
  | rdreg reg => exact completedOrRefused_execRdreg h
  | wrreg reg val => exact completedOrRefused_execWrreg h
  | start rx tx => exact completedOrRefused_execStart h
  | stop rx tx =>
    obtain rfl := execStop_next h
    exact .completed _ _ rfl rfl
  | rxSample sample => exact completedOrRefused_execRxSample h
  | txPush byte => exact completedOrRefused_execTxPush h
  | txSample => exact completedOrRefused_execTxSample h

/-- Every command word completes or is refused, an illegal one as ILLEGAL (60_exceptions.md R153, R158). -/
theorem completedOrRefused_runCommand (c : CommandWord) (s : State) :
    ∃ t, runCommand c s = .next t ∧ CompletedOrRefused s t := by
  cases hdec : decode c with
  | error e => exact ⟨_, runCommand_illegal hdec s, .refused .illegal _ (by decide) fun _ => rfl⟩
  | ok i =>
    rw [runCommand_legal hdec]
    obtain ⟨t, -, ht, -⟩ := answersOnce_exec i s
    exact ⟨t, ht, completedOrRefused_exec ht⟩

/-- The status codes are 0 to 7 (60_exceptions.md R155). -/
theorem toNat_code_le (st : Status) : st.code.toNat ≤ 7 := by cases st <;> decide

/-- The code of CONFIG is 5 (60_exceptions.md R155). -/
theorem toNat_code_eq_five_iff (st : Status) : st.code.toNat = 5 ↔ st = .config := by cases st <;> decide

/-- The code of OVERRUN is 7 (60_exceptions.md R155). -/
theorem toNat_code_eq_seven_iff (st : Status) : st.code.toNat = 7 ↔ st = .overrun := by cases st <;> decide

/-- Settles O7: the fields of the response to a word that completes, to one that is refused, and to OVERRUN. -/
theorem everyCommandAnswersOnce : Obligations.EveryCommandAnswersOnce := by
  intro s c rest hin
  rw [step_command hin]
  obtain ⟨t, hrun, ht⟩ := completedOrRefused_runCommand c { s with inputs := rest }
  cases ht with
  | @completed u flags data huin huresp =>
    have hstatus : statusField (responseWord .ok flags data) = 0 := statusField_responseWord .ok flags data
    exact ⟨_, _, hrun, huin, congrArg (· ++ [responseWord .ok flags data]) huresp, by simp [hstatus],
      fun hne => absurd hstatus hne⟩
  | refused st data hovr hdata =>
    have hstatus := statusField_responseWord st 0#12 data
    refine ⟨_, _, hrun, rfl, rfl, hstatus ▸ toNat_code_le st, fun _ => ⟨rfl, rfl, rfl, rfl,
      flagsField_responseWord st 0#12 data, fun hne => ?data, ?control⟩⟩
    case data =>
      rw [hstatus, ne_eq, toNat_code_eq_five_iff] at hne
      exact (dataField_responseWord st 0#12 data).trans (hdata hne)
    case control => simp [hstatus, toNat_code_eq_seven_iff, hovr]
  | overrun =>
    have hstatus : statusField (responseWord .overrun 0#12 0#16) = 7 := rfl
    exact ⟨_, _, hrun, rfl, rfl, hstatus.le, fun _ => ⟨rfl, rfl, rfl, rfl, rfl, fun _ => rfl,
      by simp [hstatus]⟩⟩

end Sys2Proof.Proofs
end

section
/-! After reset: with every configuration register 0 each check of START fails that it makes, and no pump command
finds its session (70_reset_and_hazards.md R172). -/

namespace Sys2Proof.Proofs

open Sys2Proof Sys2Proof.Machine Sys2Proof.Laws

/-- A SERCFG that reads 0 has no data bits and no stop bits (10_state.md R21). -/
theorem numData_numStop_of_readCfg_sercfg {s : State} (h : readCfg s .sercfg = 0#16) :
    s.cfg.ser.numData = 0 ∧ s.cfg.ser.numStop = 0 := by
  have hword := congrArg BitVec.toNat h
  simp only [readCfg, toNat_append_eq, BitVec.toNat_ofNat] at hword
  simp only [SerCfg.numData, SerCfg.numStop]
  omega

/-- A WINDOW that reads 0 has the window size 0 (10_state.md R23). -/
theorem toNat_window_of_readCfg_window {s : State} (h : readCfg s .window = 0#16) : s.cfg.window.toNat = 0 := by
  have hword := congrArg BitVec.toNat h
  rwa [readCfg, BitVec.toNat_setWidth_of_le (by norm_num)] at hword

/-- On a configuration of zeros START fails every check it makes but that of the frame length: those of the
receive pipeline, or those that the transmit pipeline shares with it (47_control.md R149). -/
theorem checkMask_of_zeros {c : ConfigRegs} (hdata : c.ser.numData = 0) (hstop : c.ser.numStop = 0)
    (hwindow : c.window.toNat = 0) (hoffset : c.offset = 0#16) (hspb : c.spb = 0#16) (rx tx : Bool) :
    checkMask rx tx c = if rx then 0x003B#16 else if tx then 0x0023#16 else 0x0000#16 := by
  have hcount : badCount 0#16 = true := by decide
  have hparity : c.ser.numParity ≤ 1 := Bool.toNat_le c.ser.parityBits
  have hlength : ¬0 + c.ser.numParity + 0 > 16 := by omega
  simp only [checkMask, hdata, hstop, hwindow, hoffset, hspb, hcount, hlength, decide_false]
  cases rx <;> cases tx <;> decide

/-- The mask with which START is refused where every state element has its reset value. -/
theorem checkMask_of_atReset {s : State} (h : AtReset s) (rx tx : Bool) :
    checkMask rx tx s.cfg = if rx then 0x003B#16 else if tx then 0x0023#16 else 0x0000#16 := by
  obtain ⟨-, hcfg, -⟩ := h
  obtain ⟨hdata, hstop⟩ := numData_numStop_of_readCfg_sercfg (hcfg .sercfg)
  exact checkMask_of_zeros hdata hstop (toNat_window_of_readCfg_window (hcfg .window)) (hcfg .offset)
    (hcfg .spb) rx tx

/-- START whose checks give a mask other than 0 is refused with that mask (47_control.md R150). -/
theorem exec_start_of_mask {rx tx : Bool} {s : State} {mask : RegVal} (hmask : checkMask rx tx s.cfg = mask)
    (hne : mask ≠ 0#16) : exec (.start rx tx) s = .next (s.answered (0x5000#16 ++ mask)) := by
  subst hmask
  exact exec_start_of_checkMask_ne_zero hne

/-- Settles O12: with both enables cleared every pump command is refused, and with the configuration 0 every
START. -/
theorem resetLeavesNothingEnabled : Obligations.ResetLeavesNothingEnabled := by
  refine ⟨atReset_reset, fun s hs => ?_⟩
  have hmask := checkMask_of_atReset hs
  obtain ⟨⟨hrxEn, htxEn, -⟩, -⟩ := hs
  exact ⟨fun sample => exec_rxSample_of_disabled sample hrxEn, fun byte => exec_txPush_of_disabled byte htxEn,
    exec_txSample_of_disabled htxEn, exec_start_of_mask (hmask true false) (by decide),
    exec_start_of_mask (hmask false true) (by decide), exec_start_of_mask (hmask true true) (by decide)⟩

end Sys2Proof.Proofs
end

section
/-! What a command depends on: each pump command on the part of the block that its pipeline works with, which the
other pipeline's commands leave as it is (R178), and every command on the block alone (R173; both of
70_reset_and_hazards.md). -/

namespace Sys2Proof.Proofs

open Sys2Proof Sys2Proof.Machine Sys2Proof.Laws

/-! ### The two sides of the block -/

/-- The part of the block that RX_SAMPLE reads and writes (44_decoder.md R117). -/
structure ReceiveSide where
  /-- The configuration registers. -/
  cfg : ConfigRegs
  /-- The tables. -/
  tab : Tables
  /-- The receive session state. -/
  rx : RxSession
  /-- RX_EN. -/
  rxEn : Bool
  /-- FE_SEEN. -/
  feSeen : Bool
  /-- PE_SEEN. -/
  peSeen : Bool
  /-- LS_SEEN. -/
  lsSeen : Bool

/-- The part of the block that TX_PUSH and TX_SAMPLE read and write (46_transmit.md R135, R138). -/
structure TransmitSide where
  /-- The configuration registers. -/
  cfg : ConfigRegs
  /-- The tables. -/
  tab : Tables
  /-- The transmit session state. -/
  tx : TxSession
  /-- TX_EN. -/
  txEn : Bool
  /-- OVR_SEEN. -/
  ovrSeen : Bool

/-- The receive side of a state. -/
def receiveSide (s : State) : ReceiveSide :=
  { cfg := s.cfg, tab := s.tab, rx := s.rx, rxEn := s.ctl.rxEn, feSeen := s.ctl.feSeen,
    peSeen := s.ctl.peSeen, lsSeen := s.ctl.lsSeen }

/-- The transmit side of a state. -/
def transmitSide (s : State) : TransmitSide :=
  { cfg := s.cfg, tab := s.tab, tx := s.tx, txEn := s.ctl.txEn, ovrSeen := s.ctl.ovrSeen }

/-- Both sides of a state: its block. -/
def bothSides (s : State) : ReceiveSide × TransmitSide := (receiveSide s, transmitSide s)

/-- Two states agree on the receive side exactly when they agree on each of its parts. -/
theorem receiveSide_eq_iff {s t : State} : receiveSide t = receiveSide s ↔
    t.cfg = s.cfg ∧ t.tab = s.tab ∧ t.rx = s.rx ∧ t.ctl.rxEn = s.ctl.rxEn ∧ t.ctl.feSeen = s.ctl.feSeen ∧
      t.ctl.peSeen = s.ctl.peSeen ∧ t.ctl.lsSeen = s.ctl.lsSeen := by
  simp only [receiveSide, ReceiveSide.mk.injEq]

/-- Two states agree on the transmit side exactly when they agree on each of its parts. -/
theorem transmitSide_eq_iff {s t : State} : transmitSide t = transmitSide s ↔
    t.cfg = s.cfg ∧ t.tab = s.tab ∧ t.tx = s.tx ∧ t.ctl.txEn = s.ctl.txEn ∧ t.ctl.ovrSeen = s.ctl.ovrSeen := by
  simp only [transmitSide, TransmitSide.mk.injEq]

/-- The two sides agree exactly when each of them does. -/
theorem bothSides_eq_iff {s t : State} : bothSides t = bothSides s ↔
    receiveSide t = receiveSide s ∧ transmitSide t = transmitSide s := Prod.mk_inj

/-- The two sides are the whole block. -/
theorem sameBlock_iff_bothSides {s t : State} : SameBlock s t ↔ bothSides t = bothSides s := by
  constructor
  · rintro ⟨hcfg, htab, hctl, hrx, htx⟩
    simp only [bothSides, receiveSide, transmitSide, hcfg, htab, hctl, hrx, htx]
  · intro h
    obtain ⟨hreceive, htransmit⟩ := bothSides_eq_iff.1 h
    obtain ⟨hcfg, htab, hrx, hrxEn, hfe, hpe, hls⟩ := receiveSide_eq_iff.1 hreceive
    obtain ⟨-, -, htx, htxEn, hovr⟩ := transmitSide_eq_iff.1 htransmit
    have hctl : t.ctl = s.ctl := by
      cases hc : t.ctl
      cases hc' : s.ctl
      simp_all only
    exact ⟨hcfg, htab, hctl, hrx, htx⟩

/-! ### Commands that depend on one part alone -/

/-- The two outcomes, from s and from t, are one and the same response, and next states that agree on a part of
the block. -/
def AnswersAlike {α : Type} (part : State → α) (s t : State) (o o' : StepOutcome) : Prop :=
  ∃ s' t' p, o = .next s' ∧ o' = .next t' ∧ part t' = part s' ∧ s'.responses = s.responses ++ [p] ∧
    t'.responses = t.responses ++ [p]

/-- What the command answers and does to a part of the block depends on that part alone. -/
def DependsOn {α : Type} (part : State → α) (i : Instr) : Prop :=
  ∀ s t : State, part t = part s → AnswersAlike part s t (exec i s) (exec i t)

/-- The command leaves a part of the block as it is. -/
def Keeps {α : Type} (part : State → α) (i : Instr) : Prop :=
  ∀ s t : State, exec i s = .next t → part t = part s

/-- The command either is mine and depends on my part of the block alone, or is not and keeps it. -/
def MineOrApart {α : Type} (part : State → α) (mine : Instr → Bool) (i : Instr) : Prop :=
  mine i = true ∧ DependsOn part i ∨ mine i = false ∧ Keeps part i

section

variable {α : Type} {part : State → α}

/-- One response to both states, each from a state with the responses so far. -/
theorem answersAlike_answered {s t u v : State} {p : ResponseWord} {o o' : StepOutcome}
    (ho : o = .next (u.answered p)) (ho' : o' = .next (v.answered p)) (hu : u.responses = s.responses)
    (hv : v.responses = t.responses) (hpart : part (v.answered p) = part (u.answered p)) :
    AnswersAlike part s t o o' :=
  ⟨_, _, p, ho, ho', hpart, congrArg (· ++ [p]) hu, congrArg (· ++ [p]) hv⟩

/-- The state after a command, and its response, where it depends on a part alone. -/
theorem DependsOn.next_and_response {i : Instr} (h : DependsOn part i) {s t : State} (hpart : part t = part s) :
    part (afterCommand i t) = part (afterCommand i s) ∧ responseTo i t = responseTo i s := by
  obtain ⟨s', t', p, hs, ht, hpart', hps, hpt⟩ := h s t hpart
  rw [responseTo, responseTo, afterCommand_next hs, afterCommand_next ht, hps, hpt]
  exact ⟨hpart', by simp⟩

/-- The state after a command that keeps a part of the block. -/
theorem Keeps.next {i : Instr} (h : Keeps part i) (s : State) : part (afterCommand i s) = part s := by
  obtain ⟨t, -, ht, -⟩ := answersOnce_exec i s
  rw [afterCommand_next ht, h s t ht]

/-- A command that depends on one part alone and keeps another depends on the two together alone. -/
theorem DependsOn.with_kept {β γ : Type} {other : State → β} {whole : State → γ} {i : Instr}
    (hwhole : ∀ {s t : State}, whole t = whole s ↔ part t = part s ∧ other t = other s)
    (hdep : DependsOn part i) (hkeep : Keeps other i) : DependsOn whole i := by
  intro s t h
  obtain ⟨hpart, hother⟩ := hwhole.1 h
  obtain ⟨s', t', p, hs, ht, hpart', hps, hpt⟩ := hdep s t hpart
  have hother' : other t' = other s' :=
    calc other t' = other t := hkeep t t' ht
      _ = other s := hother
      _ = other s' := (hkeep s s' hs).symm
  exact ⟨s', t', p, hs, ht, hwhole.2 ⟨hpart', hother'⟩, hps, hpt⟩

/-- In a run of my commands and of others that keep my part of the block, my commands alone give the same part
and the same responses. -/
theorem filter_run_alike {mine : Instr → Bool} :
    ∀ (is : List Instr) (s t : State), (∀ i ∈ is, MineOrApart part mine i) → part t = part s →
      part (afterCommands (is.filter mine) t) = part (afterCommands is s) ∧
        (answers is s).filter (fun a => mine a.1) = answers (is.filter mine) t
  | [], _, _, _, hpart => ⟨hpart, rfl⟩
  | i :: is, s, t, hall, hpart => by
    obtain ⟨hi, his⟩ := List.forall_mem_cons.1 hall
    rcases hi with ⟨hmine, hdep⟩ | ⟨hmine, hkeep⟩
    · obtain ⟨hnext, hresp⟩ := hdep.next_and_response hpart
      obtain ⟨hrun, hanswers⟩ := filter_run_alike is _ _ his hnext
      rw [List.filter_cons_of_pos hmine, answers, answers, hresp, ← hanswers]
      exact ⟨hrun, List.filter_cons_of_pos hmine⟩
    · obtain ⟨hrun, hanswers⟩ := filter_run_alike is _ t his (hpart.trans (hkeep.next s).symm)
      have hnot : ¬mine i = true := Bool.eq_false_iff.1 hmine
      rw [List.filter_cons_of_neg hnot, ← hanswers, answers]
      exact ⟨hrun, List.filter_cons_of_neg hnot⟩

end

/-! ### The pump commands -/

/-- A state that agrees with s on the receive side differs from it in the port and the rest of the transmit side
alone. -/
theorem exists_eq_of_receiveSide {s t : State} (h : receiveSide t = receiveSide s) :
    ∃ inputs responses txEn ovrSeen tx,
      t = { s with
        inputs := inputs, responses := responses
        ctl := { s.ctl with txEn := txEn, ovrSeen := ovrSeen }, tx := tx } := by
  obtain ⟨hcfg, htab, hrx, hrxEn, hfe, hpe, hls⟩ := receiveSide_eq_iff.1 h
  refine ⟨t.inputs, t.responses, t.ctl.txEn, t.ctl.ovrSeen, t.tx, ?_⟩
  simp only [← hcfg, ← htab, ← hrx, ← hrxEn, ← hfe, ← hpe, ← hls]

/-- A state that agrees with s on the transmit side differs from it in the port and the rest of the receive side
alone. -/
theorem exists_eq_of_transmitSide {s t : State} (h : transmitSide t = transmitSide s) :
    ∃ inputs responses rxEn feSeen peSeen lsSeen rx,
      t = { s with
        inputs := inputs, responses := responses
        ctl := { s.ctl with rxEn := rxEn, feSeen := feSeen, peSeen := peSeen, lsSeen := lsSeen }, rx := rx } := by
  obtain ⟨hcfg, htab, htx, htxEn, hovr⟩ := transmitSide_eq_iff.1 h
  refine ⟨t.inputs, t.responses, t.ctl.rxEn, t.ctl.feSeen, t.ctl.peSeen, t.ctl.lsSeen, t.rx, ?_⟩
  simp only [← hcfg, ← htab, ← htx, ← htxEn, ← hovr]

/-- RX_SAMPLE depends on the receive side alone, at whichever gate it ends (44_decoder.md R117). -/
theorem dependsOn_receiveSide_rxSample (sample : Sample) : DependsOn receiveSide (.rxSample sample) := by
  intro s t h
  obtain ⟨inputs, responses, txEn, ovrSeen, tx, rfl⟩ := exists_eq_of_receiveSide h
  rcases Bool.eq_false_or_eq_true s.ctl.rxEn with hen | hdis
  case inr =>
    exact answersAlike_answered (exec_rxSample_of_disabled sample hdis) (exec_rxSample_of_disabled sample hdis)
      rfl rfl h
  rcases Bool.eq_false_or_eq_true (filterAndEnergy s.cfg s.tab s.rx (inputOf sample)).es.space.primed with
    hprimed | hnot
  case inr =>
    exact answersAlike_answered (execRxSample_notPrimed hen hnot) (execRxSample_notPrimed hen hnot) rfl rfl rfl
  by_cases hlow : lowSignal s.cfg (filterAndEnergy s.cfg s.tab s.rx (inputOf sample)) = true
  · exact answersAlike_answered (execRxSample_lowSignal hen hprimed hlow)
      (execRxSample_lowSignal hen hprimed hlow) rfl rfl rfl
  · exact answersAlike_answered (execRxSample_advances hen hprimed hlow)
      (execRxSample_advances hen hprimed hlow) rfl rfl rfl

/-- TX_PUSH depends on the transmit side alone, whether it is refused or not (46_transmit.md R135, R143). -/
theorem dependsOn_transmitSide_txPush (byte : Byte) : DependsOn transmitSide (.txPush byte) := by
  intro s t h
  obtain ⟨inputs, responses, rxEn, fe, pe, ls, rx, rfl⟩ := exists_eq_of_transmitSide h
  rcases Bool.eq_false_or_eq_true s.ctl.txEn with hen | hdis
  case inr =>
    exact answersAlike_answered (exec_txPush_of_disabled byte hdis) (exec_txPush_of_disabled byte hdis) rfl rfl h
  rcases Bool.eq_false_or_eq_true s.tx.byte.full with hfull | hempty
  · exact answersAlike_answered (exec_txPush_of_slot_full byte hen hfull)
      (exec_txPush_of_slot_full byte hen hfull) rfl rfl rfl
  · exact answersAlike_answered (exec_txPush_of_slot_empty byte hen hempty)
      (exec_txPush_of_slot_empty byte hen hempty) rfl rfl rfl

/-- TX_SAMPLE depends on the transmit side alone (46_transmit.md R138). -/
theorem dependsOn_transmitSide_txSample : DependsOn transmitSide .txSample := by
  intro s t h
  obtain ⟨inputs, responses, rxEn, fe, pe, ls, rx, rfl⟩ := exists_eq_of_transmitSide h
  rcases Bool.eq_false_or_eq_true s.ctl.txEn with hen | hdis
  · exact answersAlike_answered (exec_txSample_of_enabled hen) (exec_txSample_of_enabled hen) rfl rfl rfl
  · exact answersAlike_answered (exec_txSample_of_disabled hdis) (exec_txSample_of_disabled hdis) rfl rfl h

/-- RX_SAMPLE keeps the transmit side (10_state.md R14). -/
theorem keeps_transmitSide_rxSample (sample : Sample) : Keeps transmitSide (.rxSample sample) := by
  intro s t h
  obtain ⟨hcfg, htab, htx, -, -, htxEn, hovr⟩ := execRxSample_frame h
  exact transmitSide_eq_iff.2 ⟨hcfg, htab, htx, htxEn, hovr⟩

/-- TX_PUSH keeps the receive side (10_state.md R14). -/
theorem keeps_receiveSide_txPush (byte : Byte) : Keeps receiveSide (.txPush byte) := by
  intro s t h
  obtain ⟨hcfg, htab, hrx, -, -, hctl⟩ := execTxPush_frame h
  rw [receiveSide_eq_iff, hctl]
  exact ⟨hcfg, htab, hrx, rfl, rfl, rfl, rfl⟩

/-- TX_SAMPLE keeps the receive side (10_state.md R14). -/
theorem keeps_receiveSide_txSample : Keeps receiveSide .txSample := by
  intro s t h
  obtain ⟨hcfg, htab, hrx, hctl, -, -⟩ := execTxSample_frame h
  rw [receiveSide_eq_iff, hctl]
  exact ⟨hcfg, htab, hrx, rfl, rfl, rfl, rfl⟩

/-! ### Interleaving -/

/-- A receive command depends on the receive side alone and keeps the transmit side (70_reset_and_hazards.md
R178). -/
theorem receive_apart : ∀ {i : Instr}, isReceive i = true →
    isTransmit i = false ∧ DependsOn receiveSide i ∧ Keeps transmitSide i
  | .rxSample sample, _ =>
    ⟨rfl, dependsOn_receiveSide_rxSample sample, keeps_transmitSide_rxSample sample⟩

/-- A transmit command depends on the transmit side alone and keeps the receive side (70_reset_and_hazards.md
R178). -/
theorem transmit_apart : ∀ {i : Instr}, isTransmit i = true →
    isReceive i = false ∧ DependsOn transmitSide i ∧ Keeps receiveSide i
  | .txPush byte, _ => ⟨rfl, dependsOn_transmitSide_txPush byte, keeps_receiveSide_txPush byte⟩
  | .txSample, _ => ⟨rfl, dependsOn_transmitSide_txSample, keeps_receiveSide_txSample⟩

/-- Settles O52: the commands of each pipeline depend on its side of the block alone, and the others keep it. -/
theorem interleavingKeepsPipelines : Obligations.InterleavingKeepsPipelines := by
  intro is s hpump
  have hreceive : ∀ i ∈ is, MineOrApart receiveSide isReceive i := by
    intro i hi
    rcases hpump i hi with h | h
    · obtain ⟨-, hdep, -⟩ := receive_apart h
      exact .inl ⟨h, hdep⟩
    · obtain ⟨hnot, -, hkeep⟩ := transmit_apart h
      exact .inr ⟨hnot, hkeep⟩
  have htransmit : ∀ i ∈ is, MineOrApart transmitSide isTransmit i := by
    intro i hi
    rcases hpump i hi with h | h
    · obtain ⟨hnot, -, hkeep⟩ := receive_apart h
      exact .inr ⟨hnot, hkeep⟩
    · obtain ⟨-, hdep, -⟩ := transmit_apart h
      exact .inl ⟨h, hdep⟩
  obtain ⟨hr, hranswers⟩ := filter_run_alike is s s hreceive rfl
  obtain ⟨hx, hxanswers⟩ := filter_run_alike is s s htransmit rfl
  obtain ⟨-, -, hrx, -, hfe, hpe, hls⟩ := receiveSide_eq_iff.1 hr.symm
  obtain ⟨-, -, htx, -, hovr⟩ := transmitSide_eq_iff.1 hx.symm
  exact ⟨hrx, hfe, hpe, hls, htx, hovr, hranswers, hxanswers⟩

/-! ### The whole block -/

/-- A state with the block of s differs from it in the port alone. -/
theorem exists_eq_of_bothSides {s t : State} (h : bothSides t = bothSides s) :
    ∃ inputs responses, t = { s with inputs := inputs, responses := responses } := by
  obtain ⟨hcfg, htab, hctl, hrx, htx⟩ := sameBlock_iff_bothSides.2 h
  refine ⟨t.inputs, t.responses, ?_⟩
  rw [← hcfg, ← htab, ← hctl, ← hrx, ← htx]

/-- RDREG depends on the block alone (47_control.md R146). -/
theorem dependsOn_bothSides_rdreg (reg : RegNum) : DependsOn bothSides (.rdreg reg) := by
  intro s t h
  cases hr : regOf reg with
  | none => exact answersAlike_answered (exec_rdreg_unmapped s hr) (exec_rdreg_unmapped t hr) rfl rfl h
  | some r =>
    exact answersAlike_answered (exec_rdreg_mapped s hr rfl)
      (exec_rdreg_mapped t hr (readReg_sameBlock (sameBlock_iff_bothSides.2 h) r)) rfl rfl h

/-- WRREG depends on the block alone (47_control.md R147). -/
theorem dependsOn_bothSides_wrreg (reg : RegNum) (val : RegVal) : DependsOn bothSides (.wrreg reg val) := by
  intro s t h
  obtain ⟨inputs, responses, rfl⟩ := exists_eq_of_bothSides h
  cases hr : regOf reg with
  | none => exact answersAlike_answered (exec_wrreg_unmapped val s hr) (exec_wrreg_unmapped val _ hr) rfl rfl h
  | some name =>
    cases name with
    | ro r => exact answersAlike_answered (exec_wrreg_readOnly val s hr) (exec_wrreg_readOnly val _ hr) rfl rfl h
    | status =>
      obtain rfl := (regOf_eq_status_iff reg).1 hr
      exact answersAlike_answered (exec_wrreg_status val s) (exec_wrreg_status val _) rfl rfl rfl
    | cfg r =>
      rcases Bool.eq_false_or_eq_true (configLocked s) with hlock | hopen
      · exact answersAlike_answered (exec_wrreg_locked val hr hlock) (exec_wrreg_locked val hr hlock) rfl rfl h
      · refine answersAlike_answered (exec_wrreg_unlocked val hr hopen) (exec_wrreg_unlocked val hr hopen)
          (writeCfg_responses r val s) (writeCfg_responses r val _) ?_
        cases r <;> rfl

/-- START depends on the block alone (47_control.md R148). -/
theorem dependsOn_bothSides_start (rx tx : Bool) : DependsOn bothSides (.start rx tx) := by
  intro s t h
  obtain ⟨inputs, responses, rfl⟩ := exists_eq_of_bothSides h
  by_cases hmask : checkMask rx tx s.cfg = 0#16
  · exact answersAlike_answered (exec_start_of_checkMask_eq_zero hmask) (exec_start_of_checkMask_eq_zero hmask)
      rfl rfl rfl
  · exact answersAlike_answered (exec_start_of_checkMask_ne_zero hmask) (exec_start_of_checkMask_ne_zero hmask)
      rfl rfl h

/-- STOP depends on the block alone (47_control.md R151). -/
theorem dependsOn_bothSides_stop (rx tx : Bool) : DependsOn bothSides (.stop rx tx) := by
  intro s t h
  obtain ⟨inputs, responses, rfl⟩ := exists_eq_of_bothSides h
  exact answersAlike_answered rfl rfl rfl rfl rfl

/-- Every command depends on the block alone; a pump command even on its side of it (70_reset_and_hazards.md
R173). -/
theorem dependsOn_bothSides (i : Instr) : DependsOn bothSides i := by
  cases i with
  | nop => exact fun s t h => answersAlike_answered (nopCompletes s) (nopCompletes t) rfl rfl h
  | srst => exact fun s t _ => answersAlike_answered rfl rfl (resetBlock_responses s) (resetBlock_responses t) rfl
  | rdreg reg => exact dependsOn_bothSides_rdreg reg
  | wrreg reg val => exact dependsOn_bothSides_wrreg reg val
  | start rx tx => exact dependsOn_bothSides_start rx tx
  | stop rx tx => exact dependsOn_bothSides_stop rx tx
  | rxSample sample =>
    exact (dependsOn_receiveSide_rxSample sample).with_kept bothSides_eq_iff (keeps_transmitSide_rxSample sample)
  | txPush byte =>
    exact (dependsOn_transmitSide_txPush byte).with_kept (bothSides_eq_iff.trans and_comm)
      (keeps_receiveSide_txPush byte)
  | txSample =>
    exact dependsOn_transmitSide_txSample.with_kept (bothSides_eq_iff.trans and_comm) keeps_receiveSide_txSample

/-- A command word is answered alike, an illegal one by its refusal (60_exceptions.md R158). -/
theorem runCommand_alike (c : CommandWord) {s t : State} (h : bothSides t = bothSides s) :
    AnswersAlike bothSides s t (runCommand c s) (runCommand c t) := by
  cases hdec : decode c with
  | error e => exact answersAlike_answered (runCommand_illegal hdec s) (runCommand_illegal hdec t) rfl rfl h
  | ok i =>
    rw [runCommand_legal hdec, runCommand_legal hdec]
    exact dependsOn_bothSides i s t h

/-- Settles O8: taking the word leaves the block as it is, and the word is then answered alike. -/
theorem stepDependsOnBlockAlone : Obligations.StepDependsOnBlockAlone := by
  intro s t c rs rt hblock hs ht
  rw [step_command hs, step_command ht]
  obtain ⟨s', t', p, hstep, hstep', hsides, hps, hpt⟩ :=
    runCommand_alike c (s := { s with inputs := rs }) (t := { t with inputs := rt })
      (sameBlock_iff_bothSides.1 hblock)
  exact ⟨s', t', p, hstep, hstep', sameBlock_iff_bothSides.2 hsides, hps, hpt⟩

end Sys2Proof.Proofs
end
